-- ==== Sys2Proof/Word.lean ====
section
/-! DEFINITION. The widths of the values that move through the block: bytes (20_memory.md R60) and
32-bit request words (30_encoding.md R70). -/

namespace Sys2Proof

/-- An unsigned byte: an operand, a font byte, a byte on the bus (R60, R72). -/
abbrev Byte := BitVec 8

/-- A 16-bit stretched column (42_stretch_aa.md R200). -/
abbrev Column := BitVec 16

/-- A host request word (30_encoding.md R70). -/
abbrev Word32 := BitVec 32

end Sys2Proof
end

