-- ==== Sys2Proof/Config.lean ====
section
/-! DEFINITION. The fixed geometry (00_scope.md R6), the parameters of a run (R8, 10_state.md R43) as
plain data, their defaults, and the parameters the spec leaves open without a default, which are
opaque constants. -/

namespace Sys2Proof

/-- Display width in columns, `W` (R6). -/
abbrev Config.width : Nat := 192

/-- Display height in pixels, `H` (R6). -/
abbrev Config.height : Nat := 64

/-- Number of pages, `PAGES = H / 8` (R6). -/
abbrev Config.pages : Nat := 8

/-- The base codes of the ten register commands, the parameter `REGCODE` (30_encoding.md R84). -/
structure RegCode where
  coll   : Byte
  colh   : Byte
  page   : Byte
  scroll : Byte
  map    : Byte
  vbias  : Byte
  allon  : Byte
  inv    : Byte
  dispen : Byte
  sysrst : Byte
  deriving DecidableEq, Repr, Inhabited

/-- The default `REGCODE` of R84. PRESUMED: the spec supplies it from general knowledge (93 G1); notes/assumptions/4. -/
def RegCode.standard : RegCode where
  coll   := 0x00
  colh   := 0x10
  page   := 0xB0
  scroll := 0x40
  map    := 0xC0
  vbias  := 0x81
  allon  := 0xA4
  inv    := 0xA6
  dispen := 0xAE
  sysrst := 0xE2

/-- One command byte of an initialisation sequence, as it depends on the display configuration:
a constant, `CONTRAST`, or a base code with `ORIENT` or `INVERSE` OR'd on (the shape of 93 G7). -/
inductive InitByte where
  | const (b : Byte)
  | contrast
  | orient (base : Byte)
  | inverse (base : Byte)
  deriving DecidableEq, Repr, Inhabited

/-- The commands INIT sends for one exact display configuration. -/
structure InitCase where
  contrast : Byte
  orient   : Byte
  inverse  : BitVec 1
  commands : List Byte
  deriving DecidableEq, Repr, Inhabited

/-- The parameter `INIT_SEQ`, a function of `CONTRAST`, `ORIENT` and `INVERSE` (40_framer.md R120,
10_state.md R45) as plain data: the first case that matches the configuration, else the template.
The configurations are finitely many, so every such function is one of these; notes/assumptions/5. -/
structure InitSeq where
  cases    : List InitCase
  template : List InitByte
  deriving DecidableEq, Repr, Inhabited

/-- The parameters of a run other than the font memory (R8, R43): fixed for the whole run, never
written by the block. -/
structure Params where
  regcode       : RegCode
  mapMask       : Byte
  initSeq       : InitSeq
  pwrdnPulse    : Bool
  pwrdnSeq      : List Byte
  vbiasDefault  : Byte
  resetLowUs    : Nat
  resetSettleMs : Nat
  deriving DecidableEq, Repr, Inhabited

/-- The default `MAP_MASK` (R8). PRESUMED: 93 G2; notes/assumptions/4. -/
def Config.mapMask : Byte := 0x06

/-- The default `VBIAS_DEFAULT` (R8). PRESUMED: 93 G3; notes/assumptions/4. -/
def Config.vbiasDefault : Byte := 0x49

/-- `INIT_SEQ` is OPEN (92 D29): nothing is known of it; notes/assumptions/5. -/
opaque Config.initSeq : InitSeq

/-- `PWRDN_PULSE` is OPEN (92 D30): nothing is known of it; notes/assumptions/6. -/
opaque Config.pwrdnPulse : Bool

/-- `PWRDN_SEQ` is OPEN (92 D30): nothing is known of it; notes/assumptions/6. -/
opaque Config.pwrdnSeq : List Byte

/-- `FM_SIZE` is an argument of the run (R8, 20_memory.md R50): nothing is known of it;
notes/assumptions/7. -/
opaque Config.fmSize : Nat

/-- The parameters a run has when its host replaces none: the spec's defaults (R8), the open ones opaque. -/
def Params.standard : Params where
  regcode       := RegCode.standard
  mapMask       := Config.mapMask
  initSeq       := Config.initSeq
  pwrdnPulse    := Config.pwrdnPulse
  pwrdnSeq      := Config.pwrdnSeq
  vbiasDefault  := Config.vbiasDefault
  resetLowUs    := 3
  resetSettleMs := 5

end Sys2Proof
end

