-- ==== Sys2Proof/Syntax.lean ====
section
/-! DEFINITION. The instructions: one constructor for each row of spec/opcode_table.json. The first
eighteen are the host requests (30_encoding.md R73, R74). The last eleven are the CMD8 wire commands
(R80, R84), which the block sends; notes/assumptions/2 says what running one means. -/

namespace Sys2Proof

/-- One row of the opcode table with its operands. A request operand is an unsigned byte, or the
16-bit `FBASE` (R72). A wire operand is the value field `VAL` of R80, in its place in the byte. -/
inductive Instr where
  /-- SENDCMD, R110. -/
  | sendcmd (reg val : Byte)
  /-- SETCUR, R111. -/
  | setcur (col page : Byte)
  /-- CONTRAST, R112. -/
  | contrast (v : Byte)
  /-- SCROLL, R113. -/
  | scroll (line : Byte)
  /-- ROTATE, R114. -/
  | rotate (v : Byte)
  /-- INVERT, R115. -/
  | invert (f : Byte)
  /-- ALLON, R116. -/
  | allon (f : Byte)
  /-- DISPEN, R117. -/
  | dispen (f : Byte)
  /-- SYSRST, R118. -/
  | sysrst
  /-- HWRST, R119. -/
  | hwrst
  /-- INIT, R120. -/
  | init
  /-- PWRDN, R121. -/
  | pwrdn
  /-- CLEAR, R122. -/
  | clear
  /-- SETFONT, R150. -/
  | setfont (fbase : BitVec 16)
  /-- SETSCALE, R151. -/
  | setscale (sc : Byte)
  /-- SETAA, R152. -/
  | setaa (f : Byte)
  /-- PUTC, R170. -/
  | putc (code : Byte)
  /-- PUTCAT, R171. -/
  | putcat (code col row : Byte)
  /-- wire.COLL, the column-address-low command, R84. -/
  | wireColl (v : Byte)
  /-- wire.COLH, the column-address-high command, R84. -/
  | wireColh (v : Byte)
  /-- wire.PAGE, the page-address command, R84. -/
  | wirePage (v : Byte)
  /-- wire.SCROLL, the scroll command, R84. -/
  | wireScroll (v : Byte)
  /-- wire.MAP, the mapping/orientation command, R84. -/
  | wireMap (v : Byte)
  /-- wire.VBIAS, first byte of the two-step command, R83 and R84. -/
  | wireVbias
  /-- wire.ALLON, the all-pixel-on command, R84. -/
  | wireAllon (v : Byte)
  /-- wire.INV, the inverse-display command, R84. -/
  | wireInv (v : Byte)
  /-- wire.DISPEN, the display-enable command, R84. -/
  | wireDispen (v : Byte)
  /-- wire.SYSRST, the system-reset command, R84. -/
  | wireSysrst
  /-- wire.VBIAS_VALUE, second byte of the two-step command, R83. -/
  | wireVbiasValue (v : Byte)
  deriving DecidableEq, Repr, Inhabited

/-- One word at the block's ports: a REQ32 request word (R70), a CMD8 command byte (R80), or the
CMD8 byte that follows the Vbias register byte (R83). -/
inductive PortWord where
  | req32 (w : Word32)
  | cmd8 (b : Byte)
  | vbiasValue (b : Byte)
  deriving DecidableEq, Repr, Inhabited

end Sys2Proof
end

