-- ==== Sys2Proof/WellFormed.lean ====
section
/-! DEFINITION. Which instructions are well formed. A request operand is a byte of any value: its
range is the request's own check (30_encoding.md R72, R77). A wire operand must fit its register's
value field (R81, R84). -/

namespace Sys2Proof

/-- `v` has no bit outside the value field `field` (R81). -/
def fitsField (field v : Byte) : Bool := v &&& ~~~field == 0

/-- The operands of an instruction fit their fields: the value field widths of R84, under the default
`MAP_MASK` for the mapping command. -/
def Instr.wellFormed : Instr → Bool
  | .sendcmd _ _ => true
  | .setcur _ _ => true
  | .contrast _ => true
  | .scroll _ => true
  | .rotate _ => true
  | .invert _ => true
  | .allon _ => true
  | .dispen _ => true
  | .sysrst => true
  | .hwrst => true
  | .init => true
  | .pwrdn => true
  | .clear => true
  | .setfont _ => true
  | .setscale _ => true
  | .setaa _ => true
  | .putc _ => true
  | .putcat _ _ _ => true
  | .wireColl v => fitsField 0x0F v
  | .wireColh v => fitsField 0x0F v
  | .wirePage v => fitsField 0x07 v
  | .wireScroll v => fitsField 0x3F v
  | .wireMap v => fitsField 0x06 v
  | .wireVbias => true
  | .wireAllon v => fitsField 0x01 v
  | .wireInv v => fitsField 0x01 v
  | .wireDispen v => fitsField 0x01 v
  | .wireSysrst => true
  | .wireVbiasValue _ => true

end Sys2Proof
end

