-- ==== Sys2Proof/Decode.lean ====
section
/-! DEFINITION. The decoder of request words (30_encoding.md R71 to R77) and of wire command bytes
(R80 to R84), total on every word, and after them the encoder. -/

namespace Sys2Proof

/-- Field `OP`, bits 31:24 (R71). -/
def fieldOp (w : Word32) : Byte := w.extractLsb' 24 8

/-- Field `A`, bits 23:16 (R71). -/
def fieldA (w : Word32) : Byte := w.extractLsb' 16 8

/-- Field `B`, bits 15:8 (R71). -/
def fieldB (w : Word32) : Byte := w.extractLsb' 8 8

/-- Field `C`, bits 7:0 (R71). -/
def fieldC (w : Word32) : Byte := w.extractLsb' 0 8

/-- The composite operand `FBASE`, bits 23:8, which SETFONT alone reads (R71). -/
def fieldFbase (w : Word32) : BitVec 16 := w.extractLsb' 8 16

/-- Why a word is not decoded. -/
inductive DecodeError where
  /-- `OP` is 0x00 or 0x13 to 0xFF (R75). -/
  | illegalOp
  /-- A must-be-zero field is not zero (R76). -/
  | reservedField
  /-- A CMD8 byte that no row of R84 matches; no request is ever such a byte. -/
  | unknownWireByte
  deriving DecidableEq, Repr

/-- One row of the opcode map: a word `w` spells the request when `w & mask = pattern` (R74). -/
structure RequestRow where
  op      : Byte
  pattern : Word32
  mask    : Word32
  build   : Word32 → Instr

/-- The opcode map of R74, with the operand fields of R73. -/
def requestTable : List RequestRow :=
  [ ⟨0x01, 0x01000000, 0xFF0000FF, fun w => .sendcmd (fieldA w) (fieldB w)⟩,
    ⟨0x02, 0x02000000, 0xFF0000FF, fun w => .setcur (fieldA w) (fieldB w)⟩,
    ⟨0x03, 0x03000000, 0xFF00FFFF, fun w => .contrast (fieldA w)⟩,
    ⟨0x04, 0x04000000, 0xFF00FFFF, fun w => .scroll (fieldA w)⟩,
    ⟨0x05, 0x05000000, 0xFF00FFFF, fun w => .rotate (fieldA w)⟩,
    ⟨0x06, 0x06000000, 0xFF00FFFF, fun w => .invert (fieldA w)⟩,
    ⟨0x07, 0x07000000, 0xFF00FFFF, fun w => .allon (fieldA w)⟩,
    ⟨0x08, 0x08000000, 0xFF00FFFF, fun w => .dispen (fieldA w)⟩,
    ⟨0x09, 0x09000000, 0xFFFFFFFF, fun _ => .sysrst⟩,
    ⟨0x0A, 0x0A000000, 0xFFFFFFFF, fun _ => .hwrst⟩,
    ⟨0x0B, 0x0B000000, 0xFFFFFFFF, fun _ => .init⟩,
    ⟨0x0C, 0x0C000000, 0xFFFFFFFF, fun _ => .pwrdn⟩,
    ⟨0x0D, 0x0D000000, 0xFFFFFFFF, fun _ => .clear⟩,
    ⟨0x0E, 0x0E000000, 0xFF0000FF, fun w => .setfont (fieldFbase w)⟩,
    ⟨0x0F, 0x0F000000, 0xFF00FFFF, fun w => .setscale (fieldA w)⟩,
    ⟨0x10, 0x10000000, 0xFF00FFFF, fun w => .setaa (fieldA w)⟩,
    ⟨0x11, 0x11000000, 0xFF00FFFF, fun w => .putc (fieldA w)⟩,
    ⟨0x12, 0x12000000, 0xFF000000, fun w => .putcat (fieldA w) (fieldB w) (fieldC w)⟩ ]

/-- The decoder of request words, R77. -/
def decodeRequest (w : Word32) : Except DecodeError Instr :=
  match requestTable.find? (fun r => r.op == fieldOp w) with
  | none => .error .illegalOp
  | some r => if w &&& r.mask ≠ r.pattern then .error .reservedField else .ok (r.build w)

/-- One row of the wire command table of R84: the base code and the bits of the value field. -/
structure WireRow where
  base  : Byte
  field : Byte
  build : Byte → Instr

/-- The wire command table of R84 under a run's base codes and `MAP_MASK`; the widths of the other
value fields are the table's own (DEDUCED, notes/assumptions/12). -/
def wireTable (rc : RegCode) (mapMask : Byte) : List WireRow :=
  [ ⟨rc.coll,   0x0F,    fun v => .wireColl v⟩,
    ⟨rc.colh,   0x0F,    fun v => .wireColh v⟩,
    ⟨rc.page,   0x07,    fun v => .wirePage v⟩,
    ⟨rc.scroll, 0x3F,    fun v => .wireScroll v⟩,
    ⟨rc.map,    mapMask, fun v => .wireMap v⟩,
    ⟨rc.vbias,  0x00,    fun _ => .wireVbias⟩,
    ⟨rc.allon,  0x01,    fun v => .wireAllon v⟩,
    ⟨rc.inv,    0x01,    fun v => .wireInv v⟩,
    ⟨rc.dispen, 0x01,    fun v => .wireDispen v⟩,
    ⟨rc.sysrst, 0x00,    fun _ => .wireSysrst⟩ ]

/-- The decoder of command bytes: the first row of R84 whose code the byte carries. -/
def decodeWire (rc : RegCode) (mapMask b : Byte) : Except DecodeError Instr :=
  match (wireTable rc mapMask).find? (fun r => b &&& ~~~r.field == r.base) with
  | none => .error .unknownWireByte
  | some r => .ok (r.build (b &&& r.field))

/-- The decoder of one port word. The byte that follows the Vbias register byte is the contrast
value, whatever it is (R83). -/
def decode (rc : RegCode) (mapMask : Byte) : PortWord → Except DecodeError Instr
  | .req32 w => decodeRequest w
  | .cmd8 b => decodeWire rc mapMask b
  | .vbiasValue b => .ok (.wireVbiasValue b)

/-- A request word from its four fields (R71). -/
def requestWord (op a b c : Byte) : Word32 := op ++ a ++ b ++ c

/-- The word of SETFONT: `FBASE` fills the fields `A` and `B` (R71). -/
def setfontWord (fbase : BitVec 16) : Word32 := (0x0E : Byte) ++ fbase ++ (0x00 : Byte)

/-- The encoder: the word of a well-formed instruction (R71, R73, R74; wire commands R80 and R84
under the default base codes). -/
def encode : Instr → PortWord
  | .sendcmd reg val => .req32 (requestWord 0x01 reg val 0)
  | .setcur col page => .req32 (requestWord 0x02 col page 0)
  | .contrast v => .req32 (requestWord 0x03 v 0 0)
  | .scroll line => .req32 (requestWord 0x04 line 0 0)
  | .rotate v => .req32 (requestWord 0x05 v 0 0)
  | .invert f => .req32 (requestWord 0x06 f 0 0)
  | .allon f => .req32 (requestWord 0x07 f 0 0)
  | .dispen f => .req32 (requestWord 0x08 f 0 0)
  | .sysrst => .req32 (requestWord 0x09 0 0 0)
  | .hwrst => .req32 (requestWord 0x0A 0 0 0)
  | .init => .req32 (requestWord 0x0B 0 0 0)
  | .pwrdn => .req32 (requestWord 0x0C 0 0 0)
  | .clear => .req32 (requestWord 0x0D 0 0 0)
  | .setfont fbase => .req32 (setfontWord fbase)
  | .setscale sc => .req32 (requestWord 0x0F sc 0 0)
  | .setaa f => .req32 (requestWord 0x10 f 0 0)
  | .putc code => .req32 (requestWord 0x11 code 0 0)
  | .putcat code col row => .req32 (requestWord 0x12 code col row)
  | .wireColl v => .cmd8 (RegCode.standard.coll ||| v)
  | .wireColh v => .cmd8 (RegCode.standard.colh ||| v)
  | .wirePage v => .cmd8 (RegCode.standard.page ||| v)
  | .wireScroll v => .cmd8 (RegCode.standard.scroll ||| v)
  | .wireMap v => .cmd8 (RegCode.standard.map ||| v)
  | .wireVbias => .cmd8 RegCode.standard.vbias
  | .wireAllon v => .cmd8 (RegCode.standard.allon ||| v)
  | .wireInv v => .cmd8 (RegCode.standard.inv ||| v)
  | .wireDispen v => .cmd8 (RegCode.standard.dispen ||| v)
  | .wireSysrst => .cmd8 RegCode.standard.sysrst
  | .wireVbiasValue v => .vbiasValue v

/-- The port word of a table row's bits: rows of 8 bits are CMD8 bytes, all others REQ32 words. A
byte that no code row of R84 matches can only be the byte after the Vbias register byte, whose row
(match 0x00, mask 0x00) takes every byte (DEDUCED, notes/assumptions/3). -/
def tablePortWord (nbits w : Nat) : PortWord :=
  if nbits ≤ 8 then
    match decodeWire RegCode.standard Config.mapMask (BitVec.ofNat 8 w) with
    | .ok _ => .cmd8 (BitVec.ofNat 8 w)
    | .error _ => .vbiasValue (BitVec.ofNat 8 w)
  else .req32 (BitVec.ofNat 32 w)

/-- The instruction the decoder reads from a table row's bits, or none where it rejects them. -/
def decodeTableWord (nbits w : Nat) : Option Instr :=
  (decode RegCode.standard Config.mapMask (tablePortWord nbits w)).toOption

end Sys2Proof
end

