-- ==== Sys2Proof/Machine/State.lean ====
section
/-! DEFINITION. The machine's state (10_state.md R23), the parameters of the run (R43), the record of
its ports, the fault codes (60_exceptions.md R230), the model's own stops, and the state after block
reset (70_reset_and_hazards.md R260). -/

namespace Sys2Proof.Machine

/-- The fault codes of R230. They are architectural: taking one gives a next state (R231). -/
inductive FaultCode where
  | illegalOp
  | reservedField
  | valueRange
  | overlap
  | addrRange
  | noFont
  | fontOob
  | glyphWidth
  | cursorOverflow
  deriving DecidableEq, Repr

/-- The status each request returns to the host (R233). -/
inductive Status where
  | done
  | fault (code : FaultCode)
  | rejected
  deriving DecidableEq, Repr

/-- The chip-select output as the block last drove it (10_state.md R36). -/
inductive CsLevel where
  | deasserted
  | asserted
  deriving DecidableEq, Repr

/-- The command/data output as the block last drove it (10_state.md R37). -/
inductive CdLevel where
  | data
  | command
  deriving DecidableEq, Repr

/-- The events of the bus event port (20_memory.md R55). -/
inductive BusEvent where
  | txnBegin
  | txnEnd
  | csAssert
  | csDeassert
  | cdCommand
  | cdData
  | byte (b : Byte)
  | resetPulse (lowUs settleMs : Nat)
  deriving DecidableEq, Repr

/-- What the host can present between requests: a word at a port, or block reset (70 R260, R272). -/
inductive HostInput where
  | word (p : PortWord)
  | blockReset
  deriving DecidableEq, Repr

/-- The font memory of the run: `size` bytes (20_memory.md R50), the bytes that differ from
`Memory.unlisted` listed by address. -/
structure Memory where
  size  : Nat
  cells : List Host.Cell
  deriving DecidableEq, Repr

/-- What an address below the size reads as when it is not listed. DESIGN CHOICE, unsafe;
notes/assumptions/8. -/
def Memory.unlisted : Byte := 0x00

/-- Addresses strictly rise from `low` on, stay below `size`, and no entry equals `Memory.unlisted`. -/
def Memory.cellsWf (size : Nat) : Nat → List Host.Cell → Bool
  | _, [] => true
  | low, (a, b) :: rest =>
    decide (low ≤ a) && decide (a < size) && b != Memory.unlisted && Memory.cellsWf size (a + 1) rest

/-- The canonical form of a font memory: equal memories are equal data. -/
def Memory.wf (m : Memory) : Bool := Memory.cellsWf m.size 0 m.cells

/-- The state: the sixteen elements of 10_state.md R23, then the parameters of the run (R43), then the
model's own record of what the host will present (DESIGN CHOICE, notes/assumptions/1), the bus trace
(20_memory.md R56) and the statuses returned (60_exceptions.md R233; DESIGN CHOICE, notes/assumptions/9). -/
structure State where
  col       : BitVec 16
  row       : BitVec 8
  scale     : BitVec 2
  aa        : BitVec 1
  fontValid : BitVec 1
  fontBase  : BitVec 16
  fw        : BitVec 8
  ffirst    : BitVec 8
  flast     : BitVec 8
  contrast  : BitVec 8
  orient    : BitVec 8
  inverse   : BitVec 1
  csLevel   : CsLevel
  cdLevel   : CdLevel
  fault     : BitVec 4
  faultReq  : BitVec 32
  fm        : Memory
  params    : Params
  inputs    : List HostInput
  trace     : List BusEvent
  statuses  : List Status
  deriving DecidableEq, Repr

/-- Why the model itself stops. The block's own faults are next states (R231), never one of these. -/
inductive Fault where
  /-- Raised by a font read at an address at or above `FM_SIZE`, which does not exist (20_memory.md R52).
  Every request checks its range first, so none raises it. Safe: notes/assumptions/13. -/
  | fontUnmapped
  deriving DecidableEq, Repr

/-- What the model gives no meaning to. -/
inductive Refusal where
  /-- Raised by an arm of `exec` that has no meaning yet: none is left. Safe. -/
  | notModelled (mnemonic : String)
  /-- Raised when the framer is offered a CMD8 byte that no row of 30_encoding.md R84 matches, an input
  no request makes. Safe: notes/assumptions/3. -/
  | unknownWireByte
  deriving DecidableEq, Repr

/-- The machine right after block reset in a run with the default parameters: every element at the
value of R260, nothing listed in the font memory, nothing presented yet, nothing emitted. -/
def State.reset : State where
  col       := 0
  row       := 0
  scale     := 1
  aa        := 0
  fontValid := 0
  fontBase  := 0
  fw        := 0
  ffirst    := 0
  flast     := 0
  contrast  := Config.vbiasDefault
  orient    := 0
  inverse   := 0
  csLevel   := .deasserted
  cdLevel   := .data
  fault     := 0
  faultReq  := 0
  fm        := { size := Config.fmSize, cells := [] }
  params    := Params.standard
  inputs    := []
  trace     := []
  statuses  := []

end Sys2Proof.Machine
end

