-- ==== Sys2Proof/Machine/Flags.lean ====
section
/-! DEFINITION. The block has no flags and no condition codes (10_state.md R22). What it computes for
one-bit outputs and for the fault register stands here: the levels the events drive (R36, R37) and the
numbers of the fault codes (60_exceptions.md R230). -/

namespace Sys2Proof.Machine

/-- The value `FAULT` holds for each code (R230). -/
def FaultCode.number : FaultCode → BitVec 4
  | .illegalOp => 1
  | .reservedField => 2
  | .valueRange => 3
  | .overlap => 4
  | .addrRange => 5
  | .noFont => 6
  | .fontOob => 7
  | .glyphWidth => 8
  | .cursorOverflow => 9

/-- The chip-select level after one event (R36). -/
def CsLevel.after (level : CsLevel) : BusEvent → CsLevel
  | .csAssert => .asserted
  | .csDeassert => .deasserted
  | .txnBegin => level
  | .txnEnd => level
  | .cdCommand => level
  | .cdData => level
  | .byte _ => level
  | .resetPulse _ _ => level

/-- The command/data level after one event (R37). -/
def CdLevel.after (level : CdLevel) : BusEvent → CdLevel
  | .cdCommand => .command
  | .cdData => .data
  | .txnBegin => level
  | .txnEnd => level
  | .csAssert => level
  | .csDeassert => level
  | .byte _ => level
  | .resetPulse _ _ => level

/-- The chip-select level after a list of events. -/
def driveCs (level : CsLevel) (events : List BusEvent) : CsLevel := events.foldl CsLevel.after level

/-- The command/data level after a list of events. -/
def driveCd (level : CdLevel) (events : List BusEvent) : CdLevel := events.foldl CdLevel.after level

end Sys2Proof.Machine
end

