-- ==== Sys2Proof/Machine/Ops.lean ====
section
/-! DEFINITION. The shared operations: font memory, the bus event port and the framing primitives
(40_framer.md R101 to R108), the named writes of the state elements, taking a fault and the block reset
that alone leaves it (60_exceptions.md R231, R240), and the execution of a request (R104). -/

namespace Sys2Proof.Machine

/-! ### Font memory (20_memory.md) -/

/-- The listed byte at `a`, or the byte an unlisted address reads as. -/
def Memory.lookup : List Host.Cell → Nat → Byte
  | [], _ => Memory.unlisted
  | (k, b) :: rest, a => if k = a then b else Memory.lookup rest a

/-- `MemRead(a, 1)` (R52): none at an address that does not exist. -/
def Memory.read (m : Memory) (a : Nat) : Option Byte :=
  if a < m.size then some (Memory.lookup m.cells a) else none

/-- The `n` bytes from `a` on: none if one of them does not exist. -/
def Memory.readBytes (m : Memory) (a : Nat) : Nat → Option (List Byte)
  | 0 => some []
  | n + 1 =>
    match m.read a, Memory.readBytes m (a + 1) n with
    | some b, some rest => some (b :: rest)
    | _, _ => none

/-- The cells of a byte sequence whose first byte stands at `a`, in canonical form. -/
def Memory.cellsOf : Nat → List Byte → List Host.Cell
  | _, [] => []
  | a, b :: rest =>
    if b = Memory.unlisted then Memory.cellsOf (a + 1) rest else (a, b) :: Memory.cellsOf (a + 1) rest

/-- The font memory the host supplies for a run, from its byte sequence `FM` (R50). -/
def Memory.ofBytes (bytes : List Byte) : Memory :=
  { size := bytes.length, cells := Memory.cellsOf 0 bytes }

/-! ### Framing primitives (40_framer.md) -/

/-- A command frame, R101. -/
def cmdFrame (b : Byte) : List BusEvent := [.cdCommand, .byte b, .cdData]

/-- Data bytes, R102: no CD event, since the level is DATA already. -/
def dataBytes (bs : List Byte) : List BusEvent := bs.map .byte

/-- Command frames in a row; none is merged (R107). -/
def cmdFrames (bs : List Byte) : List BusEvent := bs.flatMap cmdFrame

/-- A transaction, R103: none at all for an empty body. -/
def txn (body : List BusEvent) : List BusEvent :=
  if body = [] then [] else [.txnBegin, .csAssert] ++ body ++ [.csDeassert, .txnEnd]

/-- A cursor-set, R105: column low nibble, column high nibble, page (30_encoding.md R82). -/
def cursorSet (rc : RegCode) (c p : Nat) : List BusEvent :=
  cmdFrame (rc.coll ||| BitVec.ofNat 8 (c % 16)) ++
  cmdFrame (rc.colh ||| BitVec.ofNat 8 (c / 16 % 16)) ++
  cmdFrame (rc.page ||| BitVec.ofNat 8 p)

/-- One page of a clear: a cursor-set to column 0 and a zero byte for every column. -/
def clearPage (rc : RegCode) (p : Nat) : List BusEvent :=
  cursorSet rc 0 p ++ dataBytes (List.replicate Config.width 0x00)

/-- The traffic of a full clear, R106. -/
def clearBody (rc : RegCode) : List BusEvent := (List.range Config.pages).flatMap (clearPage rc)

/-- The reset pulse of the run, R108. -/
def pulse (p : Params) : BusEvent := .resetPulse p.resetLowUs p.resetSettleMs

/-! ### Writes of the state elements -/

/-- `COL <- c; ROW <- r`. -/
def State.setCursor (s : State) (c : BitVec 16) (r : BitVec 8) : State := { s with col := c, row := r }

/-- `CONTRAST <- v`. -/
def State.setContrast (s : State) (v : Byte) : State := { s with contrast := v }

/-- `ORIENT <- v`. -/
def State.setOrient (s : State) (v : Byte) : State := { s with orient := v }

/-- `INVERSE <- f`. -/
def State.setInverse (s : State) (f : BitVec 1) : State := { s with inverse := f }

/-- `SCALE <- sc`. -/
def State.setScale (s : State) (sc : BitVec 2) : State := { s with scale := sc }

/-- `AA <- f`. -/
def State.setAa (s : State) (f : BitVec 1) : State := { s with aa := f }

/-- The latch of SETFONT (41_text.md R150). -/
def State.setFont (s : State) (base : BitVec 16) (width first last : Byte) : State :=
  { s with fontBase := base, fw := width, ffirst := first, flast := last, fontValid := 1 }

/-- The host's next thing is taken from its port. -/
def State.setInputs (s : State) (rest : List HostInput) : State := { s with inputs := rest }

/-! ### The ports -/

/-- `emit` for a list of events (20_memory.md R56): the trace grows at its end, and the outputs hold the
levels the events leave (10_state.md R36, R37). -/
def State.emit (s : State) (events : List BusEvent) : State :=
  { s with
    trace := s.trace ++ events
    csLevel := driveCs s.csLevel events
    cdLevel := driveCd s.cdLevel events }

/-- One status goes back to the host (60_exceptions.md R233). -/
def State.report (s : State) (st : Status) : State := { s with statuses := s.statuses ++ [st] }

/-- A request presented while `FAULT` is not 0 (R232). -/
def State.reject (s : State) : State := s.report .rejected

/-! ### Taking a fault, and block reset -/

/-- A request word `w` raises fault `code` (R231, R239): `FAULT` and `FAULT_REQ` are written, the status
is returned, and nothing else changes. -/
def State.takeFault (s : State) (code : FaultCode) (w : Word32) : State :=
  State.report { s with fault := code.number, faultReq := w } (.fault code)

/-- Block reset (70_reset_and_hazards.md R260, R261), the only way out of a fault (R240): every state
element takes its reset value and no event is emitted. The parameters of the run, the host's plans and
what the ports have already carried are no state elements and stay (DEDUCED, notes/assumptions/10). -/
def State.blockReset (s : State) : State :=
  { s with
    col := 0, row := 0, scale := 1, aa := 0
    fontValid := 0, fontBase := 0, fw := 0, ffirst := 0, flast := 0
    contrast := s.params.vbiasDefault, orient := 0, inverse := 0
    csLevel := .deasserted, cdLevel := .data
    fault := 0, faultReq := 0 }

/-! ### Execution of a request -/

/-- What the rule of a request gives (00_scope.md R15): a new state and the events to emit, or a fault.
`unmapped` is the model's own case of a font read that has no byte. -/
inductive RuleResult where
  | done (s : State) (events : List BusEvent)
  | raise (code : FaultCode)
  | unmapped

/-- `execute` of R104 after decode, for the request word `w`, built again from the operands (DEDUCED,
notes/assumptions/16), and the result `r` of its rule at `s`. The test of `FAULT` stands before decode as
well (`serveWord`); here it makes a meaning right in every state (DEDUCED, notes/assumptions/11). -/
def execute (w : Word32) (s : State) (r : RuleResult) : Host.Outcome State Fault Refusal :=
  if s.fault ≠ 0 then .next s.reject
  else
    match r with
    | .done s' events => .next ((s'.emit events).report .done)
    | .raise code => .next (s.takeFault code w)
    | .unmapped => .fault .fontUnmapped

/-- The framer sends the command byte `b` on its own: one frame in one transaction (30_encoding.md R80,
40_framer.md R101 and R103). The gate and the status are those of SENDCMD (DESIGN CHOICE,
notes/assumptions/2). -/
def sendWire (b : Byte) (s : State) : Host.Outcome State Fault Refusal :=
  if s.fault ≠ 0 then .next s.reject
  else .next ((s.emit (txn (cmdFrame b))).report .done)

/-- The fault a decode error raises (R75, R76); none for a byte that is no request. -/
def faultOfDecode : DecodeError → Option FaultCode
  | .illegalOp => some .illegalOp
  | .reservedField => some .reservedField
  | .unknownWireByte => none

/-- The word at the port as `FAULT_REQ` records it. -/
def wordOfPort : PortWord → Word32
  | .req32 w => w
  | .cmd8 b => b.zeroExtend 32
  | .vbiasValue b => b.zeroExtend 32

/-- The word the host presents next, in place of what it would have presented. -/
def State.presentWord (s : State) (nbits w : Nat) : State :=
  s.setInputs (.word (tablePortWord nbits w) :: s.inputs.drop 1)

end Sys2Proof.Machine
end

