-- ==== Sys2Proof/Machine/Operands.lean ====
section
/-! DEFINITION. The operand forms and checks of the requests (40_framer.md R110 to R122, 41_text.md R150
to R171) and the definitions of the text state machine (R153 to R156). -/

namespace Sys2Proof.Machine

/-! ### Operand checks -/

/-- A position the bus may be given: `col < W` and `page < PAGES` (R105, R111, R171). -/
def onSurface (c p : Nat) : Bool := decide (c < Config.width) && decide (p < Config.pages)

/-- A flag operand above 1 is out of range (R115, R116, R117, R152). -/
def flagInRange (f : Byte) : Bool := decide (f.toNat ≤ 1)

/-- A scroll line is one of the 64 pixel rows (R113). -/
def lineInRange (line : Byte) : Bool := decide (line.toNat < Config.height)

/-- An orientation value has no bit outside `MAP_MASK` (R114). -/
def orientInRange (mapMask v : Byte) : Bool := v &&& ~~~mapMask == 0

/-- A flag operand as the one-bit register holds it. -/
def flagBit (f : Byte) : BitVec 1 := f.extractLsb' 0 1

/-- A scale operand as the two-bit register holds it. -/
def scaleBits (sc : Byte) : BitVec 2 := sc.extractLsb' 0 2

/-! ### The command lists of INIT (R120) -/

/-- One byte of an `INIT_SEQ` template under a display configuration. -/
def initByteValue (contrast orient : Byte) (inverse : BitVec 1) : InitByte → Byte
  | .const b => b
  | .contrast => contrast
  | .orient base => base ||| orient
  | .inverse base => base ||| inverse.zeroExtend 8

/-- `INIT_SEQ` applied to a display configuration: the first exact case, else the template. -/
def initCommands (q : InitSeq) (contrast orient : Byte) (inverse : BitVec 1) : List Byte :=
  match q.cases.find? (fun k => k.contrast == contrast && k.orient == orient && k.inverse == inverse) with
  | some k => k.commands
  | none => q.template.map (initByteValue contrast orient inverse)

/-! ### The text state machine -/

/-- `PADDING = SCALE` (R153, 10_state.md R42). -/
def padding (s : State) : Nat := s.scale.toNat

/-- The advance of one glyph, `FW * SCALE + PADDING` (R153). -/
def advance (s : State) : Nat := s.fw.toNat * s.scale.toNat + padding s

/-- The classes of a character code (R154). -/
inductive CharClass where
  | cr
  | lf
  | tab
  | bs
  | printable
  | unrecognised
  deriving DecidableEq, Repr

/-- The class of code `c`; the control codes are tested before the font range (R154). -/
def classify (s : State) (c : Byte) : CharClass :=
  if c = 0x0D then .cr
  else if c = 0x0A then .lf
  else if c = 0x09 then .tab
  else if c = 0x08 then .bs
  else if s.ffirst.toNat ≤ c.toNat ∧ c.toNat ≤ s.flast.toNat then .printable
  else .unrecognised

/-- Moving down one text line (R155): the new row, or none when the display is to be cleared. -/
def nextLine (r scale : Nat) : Option Nat :=
  if (r + scale) * 8 ≥ Config.height then none else some (r + scale)

/-- The state machine's reposition (R156): dropped when the position is off the surface. -/
def reposition (rc : RegCode) (c p : Nat) : List BusEvent :=
  if onSurface c p then cursorSet rc c p else []

/-- The address of the glyph of code `c`, a natural number without wrap-around (R163, 20_memory.md R53). -/
def glyphAddress (s : State) (c : Byte) : Nat :=
  s.fontBase.toNat + (c.toNat - s.ffirst.toNat) * s.fw.toNat + 4

end Sys2Proof.Machine
end

