-- ==== Sys2Proof/Machine/Framer.lean ====
section
/-! DEFINITION. The meanings of the register command requests (40_framer.md R110 to R122). Each `rule…`
gives the new state and the events of the request, or its fault; each `exec…` executes it (R104). -/

namespace Sys2Proof.Machine

/-- R110. -/
def ruleSendcmd (reg val : Byte) (s : State) : RuleResult :=
  if reg &&& val ≠ 0 then .raise .overlap
  else .done s (txn (cmdFrame (reg ||| val)))

/-- SENDCMD, R110. -/
def execSendcmd (reg val : Byte) (s : State) : Host.Outcome State Fault Refusal :=
  execute (requestWord 0x01 reg val 0) s (ruleSendcmd reg val s)

/-- R111. -/
def ruleSetcur (col page : Byte) (s : State) : RuleResult :=
  if onSurface col.toNat page.toNat then
    .done (s.setCursor (col.zeroExtend 16) page)
      (txn (cursorSet s.params.regcode col.toNat page.toNat))
  else .raise .addrRange

/-- SETCUR, R111. -/
def execSetcur (col page : Byte) (s : State) : Host.Outcome State Fault Refusal :=
  execute (requestWord 0x02 col page 0) s (ruleSetcur col page s)

/-- R112: two command frames in one transaction (30_encoding.md R83). -/
def ruleContrast (v : Byte) (s : State) : RuleResult :=
  .done (s.setContrast v) (txn (cmdFrame s.params.regcode.vbias ++ cmdFrame v))

/-- CONTRAST, R112. -/
def execContrast (v : Byte) (s : State) : Host.Outcome State Fault Refusal :=
  execute (requestWord 0x03 v 0 0) s (ruleContrast v s)

/-- R113. -/
def ruleScroll (line : Byte) (s : State) : RuleResult :=
  if lineInRange line then .done s (txn (cmdFrame (s.params.regcode.scroll ||| line)))
  else .raise .valueRange

/-- SCROLL, R113. -/
def execScroll (line : Byte) (s : State) : Host.Outcome State Fault Refusal :=
  execute (requestWord 0x04 line 0 0) s (ruleScroll line s)

/-- R114. -/
def ruleRotate (v : Byte) (s : State) : RuleResult :=
  if orientInRange s.params.mapMask v then
    .done (s.setOrient v) (txn (cmdFrame (s.params.regcode.map ||| v)))
  else .raise .valueRange

/-- ROTATE, R114. -/
def execRotate (v : Byte) (s : State) : Host.Outcome State Fault Refusal :=
  execute (requestWord 0x05 v 0 0) s (ruleRotate v s)

/-- R115. -/
def ruleInvert (f : Byte) (s : State) : RuleResult :=
  if flagInRange f then .done (s.setInverse (flagBit f)) (txn (cmdFrame (s.params.regcode.inv ||| f)))
  else .raise .valueRange

/-- INVERT, R115. -/
def execInvert (f : Byte) (s : State) : Host.Outcome State Fault Refusal :=
  execute (requestWord 0x06 f 0 0) s (ruleInvert f s)

/-- R116. -/
def ruleAllon (f : Byte) (s : State) : RuleResult :=
  if flagInRange f then .done s (txn (cmdFrame (s.params.regcode.allon ||| f)))
  else .raise .valueRange

/-- ALLON, R116. -/
def execAllon (f : Byte) (s : State) : Host.Outcome State Fault Refusal :=
  execute (requestWord 0x07 f 0 0) s (ruleAllon f s)

/-- R117. -/
def ruleDispen (f : Byte) (s : State) : RuleResult :=
  if flagInRange f then .done s (txn (cmdFrame (s.params.regcode.dispen ||| f)))
  else .raise .valueRange

/-- DISPEN, R117. -/
def execDispen (f : Byte) (s : State) : Host.Outcome State Fault Refusal :=
  execute (requestWord 0x08 f 0 0) s (ruleDispen f s)

/-- R118. -/
def ruleSysrst (s : State) : RuleResult := .done s (txn (cmdFrame s.params.regcode.sysrst))

/-- SYSRST, R118: the display controller's reset command; the block's own state stays. -/
def execSysrst (s : State) : Host.Outcome State Fault Refusal :=
  execute (requestWord 0x09 0 0 0) s (ruleSysrst s)

/-- R119: the pulse stands outside any transaction (R108). -/
def ruleHwrst (s : State) : RuleResult := .done s [pulse s.params]

/-- HWRST, R119. -/
def execHwrst (s : State) : Host.Outcome State Fault Refusal :=
  execute (requestWord 0x0A 0 0 0) s (ruleHwrst s)

/-- R120. -/
def ruleInit (s : State) : RuleResult :=
  .done s
    (pulse s.params ::
      txn (cmdFrames (initCommands s.params.initSeq s.contrast s.orient s.inverse)))

/-- INIT, R120. -/
def execInit (s : State) : Host.Outcome State Fault Refusal :=
  execute (requestWord 0x0B 0 0 0) s (ruleInit s)

/-- R121. -/
def rulePwrdn (s : State) : RuleResult :=
  .done s
    ((if s.params.pwrdnPulse then [pulse s.params] else []) ++ txn (cmdFrames s.params.pwrdnSeq))

/-- PWRDN, R121. -/
def execPwrdn (s : State) : Host.Outcome State Fault Refusal :=
  execute (requestWord 0x0C 0 0 0) s (rulePwrdn s)

/-- R122: the cursor goes home and no cursor-set follows the clear. -/
def ruleClear (s : State) : RuleResult := .done (s.setCursor 0 0) (txn (clearBody s.params.regcode))

/-- CLEAR, R122. -/
def execClear (s : State) : Host.Outcome State Fault Refusal :=
  execute (requestWord 0x0D 0 0 0) s (ruleClear s)

end Sys2Proof.Machine
end

