-- ==== Sys2Proof/Machine/Stretch.lean ====
section
/-! DEFINITION. The pure functions behind the 2x glyph path (42_stretch_aa.md): `stretch`,
`BuildStretch` and `Smooth`. The buffer and the snapshot live only inside one request, so they are plain
values (R207). -/

namespace Sys2Proof.Machine

/-! ### Bit-stretch -/

/-- `stretch(b)`, R200: the sum over `i` of `b[i] * (2^(2i) + 2^(2i+1))`. -/
def stretch (b : Byte) : Column :=
  BitVec.ofNat 16
    (((List.range 8).map fun i => (b.getLsbD i).toNat * (2 ^ (2 * i) + 2 ^ (2 * i + 1))).sum)

/-- The constant-time form of R201. -/
def stretchFast (b : Byte) : Column :=
  let w : Column := b.zeroExtend 16
  let y := ((w &&& 0x00F0) <<< 4) ||| (w &&& 0x000F)
  let y := ((y <<< 2) ||| y) &&& 0x3333
  let y := ((y <<< 1) ||| y) &&& 0x5555
  y ||| (y <<< 1)

/-- The even bits of a stretched column, which give the source byte back (R202). -/
def decimate (u : Column) : Byte :=
  BitVec.ofNat 8 (((List.range 8).map fun i => (u.getLsbD (2 * i)).toNat * 2 ^ i).sum)

/-- Bits 7:0 of a column, pixels 0 to 7 (20_memory.md R57). -/
def lowByte (u : Column) : Byte := u.extractLsb' 0 8

/-- Bits 15:8 of a column, pixels 8 to 15 (20_memory.md R57). -/
def highByte (u : Column) : Byte := u.extractLsb' 8 8

/-! ### The stretch buffer -/

/-- The 24-byte stretch buffer: `buf[x]` and `buf[x+12]` are the low and high byte of raw column `x`
(10_state.md R40). -/
abbrev StretchBuffer := List Byte

/-- Byte `i` of a buffer. -/
def bufferByte (v : StretchBuffer) (i : Nat) : Byte := v.getD i 0x00

/-- Source column `k` of R203: the padding column, then the five glyph columns. -/
def sourceColumn (g : List Byte) (k : Nat) : Byte := (0x00 :: g).getD k 0x00

/-- `BuildStretch(g)`, R203: raw column `x` holds source column `x / 2`, stretched. -/
def buildStretch (g : List Byte) : StretchBuffer :=
  ((List.range 12).map fun x => lowByte (stretch (sourceColumn g (x / 2)))) ++
  ((List.range 12).map fun x => highByte (stretch (sourceColumn g (x / 2))))

/-! ### Smoothing -/

/-- `Col(v, x)`, R204: the 16-bit value of raw column `x`. -/
def bufferColumn (v : StretchBuffer) (x : Nat) : Column := bufferByte v (x + 12) ++ bufferByte v x

/-- `Win(u, o)`, R204: the 4-bit window at bit offset `o`. -/
def window (u : Column) (o : Nat) : BitVec 4 := u.extractLsb' o 4

/-- The left raw columns of the ten pairs (R204). -/
def smoothPairs : List Nat := [1, 2, 3, 4, 5, 6, 7, 8, 9, 10]

/-- The six window offsets (R204). -/
def smoothOffsets : List Nat := [0, 2, 4, 6, 8, 10]

/-- The bits one window adds to the left and to the right column (R205). -/
def windowAdds (l r : Column) (o : Nat) : Column × Column :=
  if window l o = 0b1100 ∧ window r o = 0b0011 then
    (BitVec.ofNat 16 (2 ^ (o + 1)), BitVec.ofNat 16 (2 ^ (o + 2)))
  else if window l o = 0b0011 ∧ window r o = 0b1100 then
    (BitVec.ofNat 16 (2 ^ (o + 2)), BitVec.ofNat 16 (2 ^ (o + 1)))
  else (0, 0)

/-- What all six windows of one pair add (R205). -/
def pairAdds (l r : Column) : Column × Column :=
  smoothOffsets.foldl
    (fun acc o => (acc.1 ||| (windowAdds l r o).1, acc.2 ||| (windowAdds l r o).2)) (0, 0)

/-- OR `b` into byte `i` of a buffer. -/
def orByte (v : StretchBuffer) (i : Nat) (b : Byte) : StretchBuffer := v.set i (bufferByte v i ||| b)

/-- OR the 16-bit value `u` into raw column `x` of a buffer. -/
def orColumn (v : StretchBuffer) (x : Nat) (u : Column) : StretchBuffer :=
  orByte (orByte v x (lowByte u)) (x + 12) (highByte u)

/-- The pass over the pair of raw columns `(x, x+1)`: the tests read the snapshot, the additions are
ORed into the live buffer (R205). -/
def smoothPair (snap live : StretchBuffer) (x : Nat) : StretchBuffer :=
  let adds := pairAdds (bufferColumn snap x) (bufferColumn snap (x + 1))
  orColumn (orColumn live x adds.1) (x + 1) adds.2

/-- `Smooth(buf)`, R205. -/
def smooth (buf : StretchBuffer) : StretchBuffer := smoothPairs.foldl (smoothPair buf) buf

end Sys2Proof.Machine
end

