-- ==== Sys2Proof/Machine/Text.lean ====
section
/-! DEFINITION. The configuration setters, the text state machine and the glyph renderer (41_text.md
R150 to R171). -/

namespace Sys2Proof.Machine

/-! ### Configuration setters -/

/-- R150: the header is latched after its whole range is checked; the height byte is not read. -/
def ruleSetfont (b : BitVec 16) (s : State) : RuleResult :=
  if b.toNat + 3 ≥ s.fm.size then .raise .fontOob
  else
    match s.fm.read b.toNat, s.fm.read (b.toNat + 2), s.fm.read (b.toNat + 3) with
    | some width, some first, some last => .done (s.setFont b width first last) []
    | _, _, _ => .unmapped

/-- SETFONT, R150. -/
def execSetfont (b : BitVec 16) (s : State) : Host.Outcome State Fault Refusal :=
  execute (setfontWord b) s (ruleSetfont b s)

/-- R151: any value other than 1 and 2 is ignored. -/
def ruleSetscale (sc : Byte) (s : State) : RuleResult :=
  if sc = 1 ∨ sc = 2 then .done (s.setScale (scaleBits sc)) [] else .done s []

/-- SETSCALE, R151. -/
def execSetscale (sc : Byte) (s : State) : Host.Outcome State Fault Refusal :=
  execute (requestWord 0x0F sc 0 0) s (ruleSetscale sc s)

/-- R152. -/
def ruleSetaa (f : Byte) (s : State) : RuleResult :=
  if flagInRange f then .done (s.setAa (flagBit f)) [] else .raise .valueRange

/-- SETAA, R152. -/
def execSetaa (f : Byte) (s : State) : Host.Outcome State Fault Refusal :=
  execute (requestWord 0x10 f 0 0) s (ruleSetaa f s)

/-! ### Glyph renderer -/

/-- The 1x path, R166: the cursor-set, one zero column, the glyph's columns. -/
def render1x (rc : RegCode) (g : List Byte) (c p : Nat) : List BusEvent :=
  cursorSet rc c p ++ dataBytes [0x00] ++ dataBytes g

/-- The bottom half of a 2x glyph, clipped on the last page, R168. -/
def bottomHalf (rc : RegCode) (buf : StretchBuffer) (c p : Nat) : List BusEvent :=
  if p + 1 < Config.pages then cursorSet rc c (p + 1) ++ dataBytes (buf.drop 12) else []

/-- The 2x path, R167. -/
def render2x (rc : RegCode) (aa : BitVec 1) (g : List Byte) (c p : Nat) : List BusEvent :=
  let buf := if aa = 1 then smooth (buildStretch g) else buildStretch g
  cursorSet rc c p ++ dataBytes (buf.take 12) ++ bottomHalf rc buf c p

/-- Render, R165, at the cursor of `s`: none if a glyph byte does not exist. -/
def render (c : Byte) (s : State) : Option (List BusEvent) :=
  match s.fm.readBytes (glyphAddress s c) s.fw.toNat with
  | none => none
  | some g =>
    if s.scale = 1 then some (render1x s.params.regcode g s.col.toNat s.row.toNat)
    else some (render2x s.params.regcode s.aa g s.col.toNat s.row.toNat)

/-! ### Transitions -/

/-- CR, R157: no event. -/
def putCr (s : State) : RuleResult := .done (s.setCursor 0 s.row) []

/-- LF, R158. -/
def putLf (s : State) : RuleResult :=
  match nextLine s.row.toNat s.scale.toNat with
  | none =>
    .done (s.setCursor 0 0) (txn (clearBody s.params.regcode ++ reposition s.params.regcode 0 0))
  | some r =>
    .done (s.setCursor s.col (BitVec.ofNat 8 r)) (txn (reposition s.params.regcode s.col.toNat r))

/-- TAB, R159: no wrap; past 65535 it faults. -/
def putTab (s : State) : RuleResult :=
  let n := s.col.toNat + 4 * advance s
  if n > 0xFFFF then .raise .cursorOverflow
  else .done (s.setCursor (BitVec.ofNat 16 n) s.row) (txn (reposition s.params.regcode n s.row.toNat))

/-- BS, R160: a pure cursor move that stops at column 0. -/
def putBs (s : State) : RuleResult :=
  let n := s.col.toNat - advance s
  .done (s.setCursor (BitVec.ofNat 16 n) s.row) (txn (reposition s.params.regcode n s.row.toNat))

/-- The checks of a printable code, R163, in their order. -/
def glyphFault (c : Byte) (s : State) : Option FaultCode :=
  if s.scale = 2 ∧ s.fw ≠ 5 then some .glyphWidth
  else if s.fw.toNat > 0 ∧ glyphAddress s c + s.fw.toNat - 1 ≥ s.fm.size then some .fontOob
  else none

/-- The wrap before a printable glyph, R161 and R162: the state with the cursor where the glyph goes, and
the events sent before it. -/
def wrap (s : State) : State × List BusEvent :=
  if s.col.toNat ≥ Config.width then
    match nextLine s.row.toNat s.scale.toNat with
    | none =>
      (s.setCursor 0 0, clearBody s.params.regcode ++ reposition s.params.regcode 0 0)
    | some r => (s.setCursor 0 (BitVec.ofNat 8 r), reposition s.params.regcode 0 r)
  else (s, [])

/-- PRINTABLE, R161: the wrap if it is due, the glyph, the advance. -/
def putPrintable (c : Byte) (s : State) : RuleResult :=
  match glyphFault c s with
  | some code => .raise code
  | none =>
    match render c (wrap s).1 with
    | none => .unmapped
    | some glyph =>
      .done ((wrap s).1.setCursor (BitVec.ofNat 16 ((wrap s).1.col.toNat + advance s)) (wrap s).1.row)
        (txn ((wrap s).2 ++ glyph))

/-- UNRECOGNISED, R164: no state change and no event. -/
def putUnrecognised (s : State) : RuleResult := .done s []

/-- The case statement of PUTC, R170. -/
def putChar (c : Byte) (s : State) : RuleResult :=
  match classify s c with
  | .cr => putCr s
  | .lf => putLf s
  | .tab => putTab s
  | .bs => putBs s
  | .printable => putPrintable c s
  | .unrecognised => putUnrecognised s

/-! ### Requests -/

/-- R170. -/
def rulePutc (code : Byte) (s : State) : RuleResult :=
  if s.fontValid = 0 then .raise .noFont else putChar code s

/-- PUTC, R170. -/
def execPutc (code : Byte) (s : State) : Host.Outcome State Fault Refusal :=
  execute (requestWord 0x11 code 0 0) s (rulePutc code s)

/-- R171: the position, then the font, then PUTC at the new cursor. A fault leaves the old cursor, since
`execute` takes it in the state before. -/
def rulePutcat (code col row : Byte) (s : State) : RuleResult :=
  if onSurface col.toNat row.toNat then
    if s.fontValid = 0 then .raise .noFont
    else putChar code (s.setCursor (col.zeroExtend 16) row)
  else .raise .addrRange

/-- PUTCAT, R171. -/
def execPutcat (code col row : Byte) (s : State) : Host.Outcome State Fault Refusal :=
  execute (requestWord 0x12 code col row) s (rulePutcat code col row s)

end Sys2Proof.Machine
end

