-- ==== Sys2Proof/Machine/Wire.lean ====
section
/-! DEFINITION. The meanings of the wire command rows (30_encoding.md R80, R83, R84): the framer sends
that one register command, `REG | VAL` with the run's base code, as one command frame in a transaction
(40_framer.md R101, R103). What the display controller does with it is outside the block (R85). Running a
wire row on its own is the model's (DESIGN CHOICE, notes/assumptions/2). -/

namespace Sys2Proof.Machine

/-- wire.COLL. -/
def execWireColl (v : Byte) (s : State) : Host.Outcome State Fault Refusal :=
  sendWire (s.params.regcode.coll ||| v) s

/-- wire.COLH. -/
def execWireColh (v : Byte) (s : State) : Host.Outcome State Fault Refusal :=
  sendWire (s.params.regcode.colh ||| v) s

/-- wire.PAGE. -/
def execWirePage (v : Byte) (s : State) : Host.Outcome State Fault Refusal :=
  sendWire (s.params.regcode.page ||| v) s

/-- wire.SCROLL. -/
def execWireScroll (v : Byte) (s : State) : Host.Outcome State Fault Refusal :=
  sendWire (s.params.regcode.scroll ||| v) s

/-- wire.MAP. -/
def execWireMap (v : Byte) (s : State) : Host.Outcome State Fault Refusal :=
  sendWire (s.params.regcode.map ||| v) s

/-- wire.VBIAS. -/
def execWireVbias (s : State) : Host.Outcome State Fault Refusal :=
  sendWire s.params.regcode.vbias s

/-- wire.ALLON. -/
def execWireAllon (v : Byte) (s : State) : Host.Outcome State Fault Refusal :=
  sendWire (s.params.regcode.allon ||| v) s

/-- wire.INV. -/
def execWireInv (v : Byte) (s : State) : Host.Outcome State Fault Refusal :=
  sendWire (s.params.regcode.inv ||| v) s

/-- wire.DISPEN. -/
def execWireDispen (v : Byte) (s : State) : Host.Outcome State Fault Refusal :=
  sendWire (s.params.regcode.dispen ||| v) s

/-- wire.SYSRST. -/
def execWireSysrst (s : State) : Host.Outcome State Fault Refusal :=
  sendWire s.params.regcode.sysrst s

/-- wire.VBIAS_VALUE. -/
def execWireVbiasValue (v : Byte) (s : State) : Host.Outcome State Fault Refusal :=
  sendWire v s

end Sys2Proof.Machine
end

