-- ==== Sys2Proof/Machine/Dispatch.lean ====
section
/-! DEFINITION. One arm per constructor of `Instr`, each one direct call of its meaning. -/

namespace Sys2Proof.Machine

def exec (i : Instr) (s : State) : Host.Outcome State Fault Refusal :=
  match i with
  | .sendcmd reg val => Sys2Proof.Machine.execSendcmd reg val s
  | .setcur col page => Sys2Proof.Machine.execSetcur col page s
  | .contrast v => Sys2Proof.Machine.execContrast v s
  | .scroll line => Sys2Proof.Machine.execScroll line s
  | .rotate v => Sys2Proof.Machine.execRotate v s
  | .invert f => Sys2Proof.Machine.execInvert f s
  | .allon f => Sys2Proof.Machine.execAllon f s
  | .dispen f => Sys2Proof.Machine.execDispen f s
  | .sysrst => Sys2Proof.Machine.execSysrst s
  | .hwrst => Sys2Proof.Machine.execHwrst s
  | .init => Sys2Proof.Machine.execInit s
  | .pwrdn => Sys2Proof.Machine.execPwrdn s
  | .clear => Sys2Proof.Machine.execClear s
  | .setfont fbase => Sys2Proof.Machine.execSetfont fbase s
  | .setscale sc => Sys2Proof.Machine.execSetscale sc s
  | .setaa f => Sys2Proof.Machine.execSetaa f s
  | .putc code => Sys2Proof.Machine.execPutc code s
  | .putcat code col row => Sys2Proof.Machine.execPutcat code col row s
  | .wireColl v => Sys2Proof.Machine.execWireColl v s
  | .wireColh v => Sys2Proof.Machine.execWireColh v s
  | .wirePage v => Sys2Proof.Machine.execWirePage v s
  | .wireScroll v => Sys2Proof.Machine.execWireScroll v s
  | .wireMap v => Sys2Proof.Machine.execWireMap v s
  | .wireVbias => Sys2Proof.Machine.execWireVbias s
  | .wireAllon v => Sys2Proof.Machine.execWireAllon v s
  | .wireInv v => Sys2Proof.Machine.execWireInv v s
  | .wireDispen v => Sys2Proof.Machine.execWireDispen v s
  | .wireSysrst => Sys2Proof.Machine.execWireSysrst s
  | .wireVbiasValue v => Sys2Proof.Machine.execWireVbiasValue v s

end Sys2Proof.Machine
end

