-- ==== Sys2Proof/Machine/Port.lean ====
section
/-! DEFINITION. Serving what the host presents: the gate of a faulted block, decode, execution
(40_framer.md R104, 60_exceptions.md R232), and block reset between requests (70_reset_and_hazards.md
R260, R272). -/

namespace Sys2Proof.Machine

/-- One word at a port: rejected without being decoded while `FAULT` is not 0 (R232), else decoded under
the run's parameters and executed; a decode fault is taken like any other (R75, R76, R104). -/
def serveWord (p : PortWord) (s : State) : Host.Outcome State Fault Refusal :=
  if s.fault ≠ 0 then .next s.reject
  else
    match decode s.params.regcode s.params.mapMask p with
    | .ok i => exec i s
    | .error e =>
      match faultOfDecode e with
      | some code => .next (s.takeFault code (wordOfPort p))
      | none => .refused .unknownWireByte

/-- One thing the host presents. -/
def serve (h : HostInput) (s : State) : Host.Outcome State Fault Refusal :=
  match h with
  | .word p => serveWord p s
  | .blockReset => .next s.blockReset

/-- The block serves the next thing presented; with nothing presented it waits (R262;
DEDUCED, notes/assumptions/14). -/
def serveNext (s : State) : Host.Outcome State Fault Refusal :=
  match s.inputs with
  | [] => .next s
  | h :: rest => serve h (s.setInputs rest)

end Sys2Proof.Machine
end

