-- ==== Sys2Proof/Machine/Step.lean ====
section
/-! DEFINITION. One step of the machine: the block serves the next thing the host presents (00_scope.md
R18). -/

namespace Sys2Proof.Machine

/-- One step: a request, or block reset, from start to end. -/
def step (s : State) : Host.Outcome State Fault Refusal := serveNext s

/-- `s` with the word of a table row presented next: 8-bit rows are CMD8 bytes, 32-bit rows REQ32 words. -/
def State.withFetchWord (s : State) (nbits w : Nat) : State := s.presentWord nbits w

end Sys2Proof.Machine
end

