-- ==== Sys2Proof/Machine/Assembler.lean ====
section
/-! DEFINITION. The textual form of requests and the pseudo-requests (30_encoding.md R90 to R93): a line of
characters to the request words it stands for, none where the assembler rejects it. It is no part of the
block: the machine never calls it. What R90 leaves open is in notes/assumptions/15. -/

namespace Sys2Proof.Machine

/-- The tokens of a line. -/
inductive Token where
  | name (cs : List Char)
  | number (n : Nat)
  | char (b : Byte)
  | text (bs : List Byte)
  | comma
  deriving DecidableEq, Repr

/-- The byte of an ASCII character; a literal with any other is rejected (DESIGN CHOICE,
notes/assumptions/15). -/
def asciiByte (c : Char) : Option Byte := if c.toNat < 128 then some (BitVec.ofNat 8 c.toNat) else none

/-- The byte of an escape, by the character after the backslash (R90). Every other escape is rejected (DESIGN
CHOICE, notes/assumptions/15). -/
def escapeByte (c : Char) : Option Byte :=
  if c = 'n' then some 0x0A
  else if c = 'r' then some 0x0D
  else if c = 't' then some 0x09
  else if c = 'b' then some 0x08
  else none

/-- The value of a digit character in a base up to 16. Hexadecimal letters of either case count (DESIGN CHOICE,
notes/assumptions/15). -/
def digitValue (base : Nat) (c : Char) : Option Nat :=
  let n := c.toNat
  let v := if 48 ≤ n ∧ n ≤ 57 then n - 48
    else if 97 ≤ n ∧ n ≤ 102 then n - 87
    else if 65 ≤ n ∧ n ≤ 70 then n - 55
    else base
  if v < base then some v else none

/-- The number that digits spell, from a value already read. -/
def digitsValue (base : Nat) : Nat → List Char → Option Nat
  | acc, [] => some acc
  | acc, c :: rest =>
    match digitValue base c with
    | some v => digitsValue base (acc * base + v) rest
    | none => none

/-- A C-style number: decimal, `0x` hexadecimal or `0b` binary (R90). R90 shows the prefixes in lower case
only, and leaves leading zeros (C's octal form) and suffixes open: that `0X`, `0B`, a leading zero and a suffix
are rejected is a DESIGN CHOICE, notes/assumptions/15. -/
def numberValue : List Char → Option Nat
  | [] => none
  | ['0'] => some 0
  | '0' :: 'x' :: c :: rest => digitsValue 16 0 (c :: rest)
  | '0' :: 'b' :: c :: rest => digitsValue 2 0 (c :: rest)
  | '0' :: _ => none
  | c :: rest => digitsValue 10 0 (c :: rest)

/-- The bytes of a text up to its closing quote, and the characters after the quote. -/
def textBytes : List Char → Option (List Byte × List Char)
  | [] => none
  | c :: rest =>
    if c.toNat = 34 then some ([], rest)
    else if c.toNat = 92 then
      match rest with
      | [] => none
      | e :: rest' =>
        match escapeByte e, textBytes rest' with
        | some b, some (bs, after) => some (b :: bs, after)
        | _, _ => none
    else
      match asciiByte c, textBytes rest with
      | some b, some (bs, after) => some (b :: bs, after)
      | _, _ => none

/-- A character that continues a word or a number. -/
def isWordChar (c : Char) : Bool :=
  let n := c.toNat
  (48 ≤ n && n ≤ 57) || (65 ≤ n && n ≤ 90) || (97 ≤ n && n ≤ 122)

/-- The tokens of a line; `fuel` bounds their number. Blanks separate tokens and may stand or be absent beside
a comma or a literal (DESIGN CHOICE, notes/assumptions/15). A semicolon starts a comment (R90). R90 does not
say whether it does so inside a character literal or a text: that it, like a comma or a blank, is an ordinary
character there is a DESIGN CHOICE, notes/assumptions/15. -/
def lexLine : Nat → List Char → Option (List Token)
  | _, [] => some []
  | 0, _ :: _ => none
  | fuel + 1, c :: rest =>
    if c.toNat = 32 ∨ c.toNat = 9 then lexLine fuel rest
    else if c.toNat = 59 then some []
    else if c.toNat = 44 then (lexLine fuel rest).map (Token.comma :: ·)
    else if c.toNat = 34 then
      match textBytes rest with
      | some (bs, after) => (lexLine fuel after).map (Token.text bs :: ·)
      | none => none
    else if c.toNat = 39 then
      match rest with
      | x :: y :: z :: after =>
        if x.toNat = 92 ∧ z.toNat = 39 then
          match escapeByte y, lexLine fuel after with
          | some b, some ts => some (.char b :: ts)
          | _, _ => none
        else if x.toNat ≠ 92 ∧ x.toNat ≠ 39 ∧ y.toNat = 39 then
          match asciiByte x, lexLine fuel (z :: after) with
          | some b, some ts => some (.char b :: ts)
          | _, _ => none
        else none
      | [x, y] =>
        if x.toNat ≠ 92 ∧ x.toNat ≠ 39 ∧ y.toNat = 39 then (asciiByte x).map (fun b => [.char b]) else none
      | _ => none
    else if isWordChar c then
      let cs := (c :: rest).takeWhile isWordChar
      let after := (c :: rest).dropWhile isWordChar
      let token := if 48 ≤ c.toNat ∧ c.toNat ≤ 57 then (numberValue cs).map Token.number else some (.name cs)
      match token, lexLine fuel after with
      | some t, some ts => some (t :: ts)
      | _, _ => none
    else none

/-- The operands of a line, separated by single commas (R90). -/
def operandList : List Token → Option (List Token)
  | [] => some []
  | [t] => if t = .comma then none else some [t]
  | t :: .comma :: rest =>
    if t = .comma ∨ rest = [] then none else (operandList rest).map (t :: ·)
  | _ :: _ :: _ => none

/-- A byte operand takes 0 to 255 (R91). -/
def byteOperand : Token → Option Byte
  | .number n => if n < 256 then some (BitVec.ofNat 8 n) else none
  | _ => none

/-- A `code` operand may be a character literal too (R90). -/
def codeOperand : Token → Option Byte
  | .char b => some b
  | t => byteOperand t

/-- The `fbase` operand takes 0 to 65535 (R91). -/
def fbaseOperand : Token → Option (BitVec 16)
  | .number n => if n < 65536 then some (BitVec.ofNat 16 n) else none
  | _ => none

/-- A request with one byte operand. -/
def oneByte (build : Byte → Instr) : List Token → Option (List Instr)
  | [t] => (byteOperand t).map fun b => [build b]
  | _ => none

/-- A request with two byte operands. -/
def twoBytes (build : Byte → Byte → Instr) : List Token → Option (List Instr)
  | [t, u] =>
    match byteOperand t, byteOperand u with
    | some a, some b => some [build a b]
    | _, _ => none
  | _ => none

/-- A request, or pseudo-request, without operands. -/
def noOperand (is : List Instr) : List Token → Option (List Instr)
  | [] => some is
  | _ => none

/-- SETFONT's line. -/
def setfontLine : List Token → Option (List Instr)
  | [t] => (fbaseOperand t).map fun b => [.setfont b]
  | _ => none

/-- PUTC's line. -/
def putcLine : List Token → Option (List Instr)
  | [t] => (codeOperand t).map fun b => [.putc b]
  | _ => none

/-- PUTCAT's line. -/
def putcatLine : List Token → Option (List Instr)
  | [t, u, v] =>
    match codeOperand t, byteOperand u, byteOperand v with
    | some code, some col, some row => some [.putcat code col row]
    | _, _, _ => none
  | _ => none

/-- `string "text"` is one PUTC for each byte of the text (R92). -/
def stringLine : List Token → Option (List Instr)
  | [.text bs] => some (bs.map .putc)
  | _ => none

/-- The lower-case mnemonics (R90), and the pseudo-requests `string`, `home` and `newline` (R92, R93). -/
def mnemonicTable : List (String × (List Token → Option (List Instr))) :=
  [ ("sendcmd", twoBytes .sendcmd), ("setcur", twoBytes .setcur), ("contrast", oneByte .contrast),
    ("scroll", oneByte .scroll), ("rotate", oneByte .rotate), ("invert", oneByte .invert),
    ("allon", oneByte .allon), ("dispen", oneByte .dispen), ("sysrst", noOperand [.sysrst]),
    ("hwrst", noOperand [.hwrst]), ("init", noOperand [.init]), ("pwrdn", noOperand [.pwrdn]),
    ("clear", noOperand [.clear]), ("setfont", setfontLine), ("setscale", oneByte .setscale),
    ("setaa", oneByte .setaa), ("putc", putcLine), ("putcat", putcatLine), ("string", stringLine),
    ("home", noOperand [.setcur 0 0]), ("newline", noOperand [.putc 0x0D, .putc 0x0A]) ]

/-- The requests of one line; a line that holds nothing but blanks and a comment has none (DESIGN CHOICE,
notes/assumptions/15). -/
def parseLine (line : List Char) : Option (List Instr) :=
  match lexLine line.length line with
  | some [] => some []
  | some (.name cs :: rest) =>
    match mnemonicTable.find? (fun e => e.1.toList == cs), operandList rest with
    | some e, some ops => e.2 ops
    | _, _ => none
  | _ => none

/-- The port words of one line (R90 to R93). -/
def assembleLine (line : List Char) : Option (List PortWord) := (parseLine line).map (·.map encode)

/-- A text of several lines as what the host presents, in order. -/
def assemble : List (List Char) → Option (List HostInput)
  | [] => some []
  | line :: rest =>
    match assembleLine line, assemble rest with
    | some ws, some hs => some (ws.map .word ++ hs)
    | _, _ => none

end Sys2Proof.Machine
end

