-- ==== Sys2Proof/Safety.lean ====
section
/-! DEFINITION. What a good state and a good bus trace are, in the terms claims use: the invariants of
10_state.md R44, and the bracket discipline of the bus events (40_framer.md R101, R103, R124). -/

namespace Sys2Proof.Machine

/-- The parameters of a run are as R8 and R108 ask: the pulse durations are at least the minimums. -/
def legalParams (p : Params) : Prop := 3 ≤ p.resetLowUs ∧ 5 ≤ p.resetSettleMs

/-- R44, with the legal values of R23: what holds between any two requests. -/
structure State.Inv (s : State) : Prop where
  row      : s.row.toNat < Config.pages
  cs       : s.csLevel = .deasserted
  cd       : s.cdLevel = .data
  scale    : s.scale = 1 ∨ s.scale = 2
  orient   : s.orient &&& ~~~s.params.mapMask = 0
  noFault  : s.fault = 0 → s.faultReq = 0
  fault    : s.fault.toNat ≤ 9

/-- `FONTBASE`, `FW`, `FFIRST` and `FLAST` stay 0 until the first SETFONT (R28, 93 I19). -/
def State.fontUnset (s : State) : Prop :=
  s.fontValid = 0 → s.fontBase = 0 ∧ s.fw = 0 ∧ s.ffirst = 0 ∧ s.flast = 0

/-- Where a bus trace stands between two events. -/
inductive BusPhase where
  /-- No transaction is open. -/
  | idle
  /-- After `TXN_BEGIN`. -/
  | begun
  /-- After `CS_ASSERT`, nothing sent yet. -/
  | selected
  /-- In a transaction at the data level, with something sent. -/
  | body
  /-- After `CD_COMMAND`. -/
  | command
  /-- After the one byte of a command frame. -/
  | commandSent
  /-- After `CS_DEASSERT`. -/
  | deselected
  deriving DecidableEq, Repr

/-- The phase after one event; none where the discipline of R101, R103, R108 and R124 forbids it. -/
def BusPhase.next : BusPhase → BusEvent → Option BusPhase
  | .idle, .txnBegin => some .begun
  | .idle, .resetPulse _ _ => some .idle
  | .begun, .csAssert => some .selected
  | .selected, .cdCommand => some .command
  | .selected, .byte _ => some .body
  | .body, .cdCommand => some .command
  | .body, .byte _ => some .body
  | .body, .csDeassert => some .deselected
  | .command, .byte _ => some .commandSent
  | .commandSent, .cdData => some .body
  | .deselected, .txnEnd => some .idle
  | _, _ => none

/-- The phase after a list of events. -/
def BusPhase.run : BusPhase → List BusEvent → Option BusPhase
  | p, [] => some p
  | p, e :: rest =>
    match p.next e with
    | some q => BusPhase.run q rest
    | none => none

/-- The whole trace keeps the discipline and leaves no transaction open. -/
def State.busIdle (s : State) : Prop := BusPhase.idle.run s.trace = some .idle

/-- The command bytes of a list of events: the bytes right after a `CD_COMMAND`. -/
def commandBytes : List BusEvent → List Byte
  | .cdCommand :: .byte b :: rest => b :: commandBytes rest
  | _ :: rest => commandBytes rest
  | [] => []

/-- The data bytes of a list of events: the bytes not right after a `CD_COMMAND`. -/
def sentData : List BusEvent → List Byte
  | .cdCommand :: .byte _ :: rest => sentData rest
  | .byte b :: rest => b :: sentData rest
  | _ :: rest => sentData rest
  | [] => []

/-- The number of `BYTE` events. -/
def byteCount (events : List BusEvent) : Nat := (commandBytes events).length + (sentData events).length

/-! ### What a served request leaves, written out for the claims -/

/-- A command frame as the bus sees it (R101). -/
def sentFrame (b : Byte) : List BusEvent := [.cdCommand, .byte b, .cdData]

/-- The three frames of a cursor-set to column `c` and page `p` (R105). -/
def sentCursor (rc : RegCode) (c p : Nat) : List BusEvent :=
  sentFrame (rc.coll ||| BitVec.ofNat 8 (c % 16)) ++ sentFrame (rc.colh ||| BitVec.ofNat 8 (c / 16)) ++
    sentFrame (rc.page ||| BitVec.ofNat 8 p)

/-- The traffic of a full clear (R106). -/
def sentClear (rc : RegCode) : List BusEvent :=
  (List.range 8).flatMap fun p => sentCursor rc 0 p ++ List.replicate 192 (.byte 0)

/-- A transaction around a body that is not empty (R103). -/
def sentTransaction (body : List BusEvent) : List BusEvent :=
  .txnBegin :: .csAssert :: (body ++ [.csDeassert, .txnEnd])

/-- A request word from the numbers in its fields (30_encoding.md R71). -/
def wordOf (op a b c : Nat) : Word32 := BitVec.ofNat 32 (op * 2 ^ 24 + a * 2 ^ 16 + b * 2 ^ 8 + c)

/-- `s` after a request that sent a transaction last: the events, the idle levels, the status DONE. -/
def State.afterSending (s : State) (events : List BusEvent) : State :=
  { s with
    trace := s.trace ++ events
    csLevel := .deasserted
    cdLevel := .data
    statuses := s.statuses ++ [.done] }

/-- `s` after a request that emitted events outside any transaction, or none: the levels stay. -/
def State.afterPulse (s : State) (events : List BusEvent) : State :=
  { s with trace := s.trace ++ events, statuses := s.statuses ++ [.done] }

/-- `s` after a request that emitted nothing and reports DONE. -/
def State.afterSilence (s : State) : State := { s with statuses := s.statuses ++ [.done] }

/-- `s` after request word `w` raised fault `code`, whose number is `n` (60_exceptions.md R230, R231). -/
def State.afterFault (s : State) (n : BitVec 4) (code : FaultCode) (w : Word32) : State :=
  { s with fault := n, faultReq := w, statuses := s.statuses ++ [.fault code] }

/-- Requests executed one after another, stopping where one stops. -/
def execAll : List Instr → State → Host.Outcome State Fault Refusal
  | [], s => .next s
  | i :: rest, s =>
    match exec i s with
    | .next t => execAll rest t
    | .fault r => .fault r
    | .refused r => .refused r

/-- A code that prints under the font of `s` (41_text.md R154). -/
def printableCode (s : State) (c : Byte) : Prop :=
  c ≠ 0x0D ∧ c ≠ 0x0A ∧ c ≠ 0x09 ∧ c ≠ 0x08 ∧ s.ffirst.toNat ≤ c.toNat ∧ c.toNat ≤ s.flast.toNat

/-- The address of the glyph of code `c` in the selected font (20_memory.md R53). -/
def glyphStart (s : State) (c : Byte) : Nat := s.fontBase.toNat + (c.toNat - s.ffirst.toNat) * s.fw.toNat + 4

/-- Every byte of the glyph of code `c` exists (41_text.md R163). -/
def glyphPresent (s : State) (c : Byte) : Prop := s.fw.toNat = 0 ∨ glyphStart s c + s.fw.toNat ≤ s.fm.size

/-- The columns of the glyph of code `c` are `g`: byte `j` is font memory byte `j` past its start. -/
def glyphColumns (s : State) (c : Byte) (g : List Byte) : Prop :=
  g.length = s.fw.toNat ∧ ∀ j, j < s.fw.toNat → s.fm.read (glyphStart s c + j) = g[j]?

/-- What the glyph with columns `g` sends at column `c` and page `p` at scale 1 (41_text.md R166). -/
def sentGlyph1x (rc : RegCode) (g : List Byte) (c p : Nat) : List BusEvent :=
  sentCursor rc c p ++ .byte 0 :: g.map .byte

/-- What a 24-byte stretch buffer sends at column `c` and page `p`: both halves, or the top half alone on
the last page (R167, R168). -/
def sentGlyph2x (rc : RegCode) (buf : List Byte) (c p : Nat) : List BusEvent :=
  sentCursor rc c p ++ (buf.take 12).map .byte ++
    (if p + 1 < 8 then sentCursor rc c (p + 1) ++ (buf.drop 12).map .byte else [])

/-- What the glyph with columns `g` sends under the scale and the smoothing flag of `s` (R165, R167). -/
def sentGlyph (s : State) (g : List Byte) (c p : Nat) : List BusEvent :=
  if s.scale = 1 then sentGlyph1x s.params.regcode g c p
  else if s.aa = 1 then sentGlyph2x s.params.regcode (smooth (buildStretch g)) c p
  else sentGlyph2x s.params.regcode (buildStretch g) c p

/-- The scale is legal and can draw the selected font: 1, or 2 with a 5-column font (R163). -/
def drawableScale (s : State) : Prop := s.scale = 1 ∨ (s.scale = 2 ∧ s.fw = 5)

/-- The column distance of one glyph, `FW * SCALE + SCALE` (R153). -/
def glyphAdvance (s : State) : Nat := s.fw.toNat * s.scale.toNat + s.scale.toNat

/-- A must-be-zero field of a word with a defined `OP` is not zero (30_encoding.md R73, R76): the number in
the fields below the operands, which are `C`, or `B` and `C`, or all three. -/
def reservedFieldSet (w : Word32) : Prop :=
  (w.toNat / 2 ^ 24 ∈ [0x01, 0x02, 0x0E] ∧ w.toNat % 2 ^ 8 ≠ 0) ∨
  (w.toNat / 2 ^ 24 ∈ [0x03, 0x04, 0x05, 0x06, 0x07, 0x08, 0x0F, 0x10, 0x11] ∧ w.toNat % 2 ^ 16 ≠ 0) ∨
  (w.toNat / 2 ^ 24 ∈ [0x09, 0x0A, 0x0B, 0x0C, 0x0D] ∧ w.toNat % 2 ^ 24 ≠ 0)

end Sys2Proof.Machine
end

