-- ==== Sys2Proof/Certificates/Slice0/Obligations.lean ====
section
/-! DEFINITION. The statements for the provers. An equation that gives a whole next state is a result, a
frame (every field it does not name is unchanged, the font memory among them) and a completion at once. -/

open Sys2Proof Sys2Proof.Machine

/-! ### Encoding and decoding -/

/-- Decode and encode agree for every well-formed instruction of the table, with every operand at every
value its encoding admits (R71, R73, R74, R84). -/
def Obligations.DecodeOfEncodeIsTheInstruction : Prop :=
  ∀ i : Instr, i.wellFormed = true → decode RegCode.standard Config.mapMask (encode i) = .ok i

/-- No bit of a request word is dropped: a word that decodes is the encoding of what it decodes to
(R71, R74, R77). -/
def Obligations.EncodeOfDecodedRequestIsTheWord : Prop :=
  ∀ (rc : RegCode) (m : Byte) (w : Word32) (i : Instr),
    decode rc m (.req32 w) = .ok i → encode i = .req32 w ∧ i.wellFormed = true

/-- R94: the encoding examples decode to the requests they stand for. -/
def Obligations.EncodingExamplesDecode : Prop :=
  decodeTableWord 32 0x01100500 = some (.sendcmd 0x10 0x05) ∧
  decodeTableWord 32 0x02640300 = some (.setcur 100 3) ∧
  decodeTableWord 32 0x0E123400 = some (.setfont 0x1234) ∧
  decodeTableWord 32 0x12410A02 = some (.putcat 0x41 10 2) ∧
  decodeTableWord 32 0x0D000000 = some .clear ∧
  encode (.sendcmd 0x10 0x05) = .req32 0x01100500 ∧
  encode (.setcur 100 3) = .req32 0x02640300 ∧
  encode (.setfont 0x1234) = .req32 0x0E123400 ∧
  encode (.putcat 0x41 10 2) = .req32 0x12410A02 ∧
  encode .clear = .req32 0x0D000000

/-- R75: a request word with an undefined `OP` takes the fault ILLEGAL_OP. -/
def Obligations.IllegalOpcodeFaults : Prop :=
  ∀ (s : State) (w : Word32) (rest : List HostInput),
    s.fault = 0 → s.inputs = .word (.req32 w) :: rest →
    (w.toNat / 2 ^ 24 = 0 ∨ 0x13 ≤ w.toNat / 2 ^ 24) →
    step s = .next (State.afterFault { s with inputs := rest } 1 .illegalOp w)

/-- R76: a request word with a defined `OP` and a must-be-zero field set takes RESERVED_FIELD. -/
def Obligations.ReservedFieldFaults : Prop :=
  ∀ (s : State) (w : Word32) (rest : List HostInput),
    s.fault = 0 → s.inputs = .word (.req32 w) :: rest → reservedFieldSet w →
    step s = .next (State.afterFault { s with inputs := rest } 2 .reservedField w)

/-! ### The machine as a whole -/

/-- A step at a word that decodes is `exec` of the decoded instruction, in the state whose port has moved
on to what the host presents next (R18, R77, R104). -/
def Obligations.StepRunsTheDecodedInstruction : Prop :=
  ∀ (s : State) (p : PortWord) (rest : List HostInput) (i : Instr),
    s.fault = 0 → s.inputs = .word p :: rest →
    decode s.params.regcode s.params.mapMask p = .ok i →
    step s = exec i { s with inputs := rest }

/-- R260, R261: block reset sets every state element to its reset value and emits no bus event. That the
run's parameters, the ports' records and the host's plans stay is the model's reading (log entry 10). -/
def Obligations.BlockResetRestoresEveryElement : Prop :=
  ∀ (s : State) (rest : List HostInput), s.inputs = .blockReset :: rest →
    step s = .next
      { s with
        col := 0, row := 0, scale := 1, aa := 0
        fontValid := 0, fontBase := 0, fw := 0, ffirst := 0, flast := 0
        contrast := s.params.vbiasDefault, orient := 0, inverse := 0
        csLevel := .deasserted, cdLevel := .data, fault := 0, faultReq := 0
        inputs := rest }

/-- The state after reset holds the values of R260 under the default parameters. That `VBIAS_DEFAULT` is
0x49 is the default the spec takes from general knowledge (log entry 4), and that the trace begins empty is the
model's choice (log entry 9). -/
def Obligations.ResetStateHoldsTheSpecValues : Prop :=
  State.reset.col = 0 ∧ State.reset.row = 0 ∧ State.reset.scale = 1 ∧ State.reset.aa = 0 ∧
  State.reset.fontValid = 0 ∧ State.reset.fontBase = 0 ∧ State.reset.fw = 0 ∧
  State.reset.ffirst = 0 ∧ State.reset.flast = 0 ∧ State.reset.contrast = 0x49 ∧
  State.reset.orient = 0 ∧ State.reset.inverse = 0 ∧ State.reset.csLevel = .deasserted ∧
  State.reset.cdLevel = .data ∧ State.reset.fault = 0 ∧ State.reset.faultReq = 0 ∧
  State.reset.trace = []

/-- The state after reset meets the invariants of R44 and R23, and its font registers are 0 (R28, R260). The
other clauses are the model's choice: the idle bus, since the trace begins empty (log entry 9); the canonical
form of the font memory, which is the model's own (log entry 8); and the pulse durations 3 and 5 (log
entry 4). -/
def Obligations.ResetMeetsTheInvariants : Prop :=
  State.reset.Inv ∧ State.reset.fontUnset ∧ State.reset.busIdle ∧ State.reset.fm.wf = true ∧
    legalParams State.reset.params

/-- The invariants of R44, and that the font registers are 0 until the first SETFONT (93 I19), hold after
every step from a state that meets them, reachable or not. -/
def Obligations.StepKeepsTheStateInvariants : Prop :=
  ∀ s t : State, step s = .next t → (s.Inv → t.Inv) ∧ (s.fontUnset → t.fontUnset)

/-- R124 with R103 and R108: every step keeps the bus trace in whole, non-empty transactions whose every
`CD_COMMAND` is followed after exactly one `BYTE` by a `CD_DATA`, with every `BYTE` inside one and every
reset pulse outside. -/
def Obligations.StepKeepsTheBusDiscipline : Prop :=
  ∀ s t : State, s.busIdle → step s = .next t → t.busIdle

/-- A step always answers a next state: no request, decoded or not, and no block reset stops the machine,
and no font read lies outside the font memory (R52, R104, R231). The one input left out is the model's own
offer of a wire byte (log entries 2 and 3). -/
def Obligations.StepNeverStops : Prop :=
  ∀ s : State, (∀ b, s.inputs.head? ≠ some (.word (.cmd8 b))) → ∃ t, step s = .next t

/-- The block never writes the font memory or any other parameter of the run (R43, R51). -/
def Obligations.StepKeepsFontMemoryAndParameters : Prop :=
  ∀ s t : State, step s = .next t → t.fm = s.fm ∧ t.params = s.params

/-- R232: a faulted block rejects every word without decoding it, emits nothing and changes nothing, and
only block reset changes `FAULT` again. -/
def Obligations.FaultedBlockRejectsUntilReset : Prop :=
  (∀ (s : State) (p : PortWord) (rest : List HostInput),
    s.fault ≠ 0 → s.inputs = .word p :: rest →
    step s = .next { s with inputs := rest, statuses := s.statuses ++ [.rejected] }) ∧
  (∀ s t : State, s.fault ≠ 0 → step s = .next t → (t.fault ≠ s.fault ∨ t.faultReq ≠ s.faultReq) →
    s.inputs.head? = some .blockReset)

/-- R231: a word that raises a fault, in its decoding or in its execution, changes `FAULT`, `FAULT_REQ` and
the status alone, and what it records is the code and the very word presented; any other word leaves `FAULT`
and `FAULT_REQ` as they were. -/
def Obligations.FaultChangesNothingElse : Prop :=
  ∀ (s t : State) (p : PortWord) (rest : List HostInput),
    s.fault = 0 → s.inputs = .word p :: rest → step s = .next t →
    t.fault = 0 ∧ t.faultReq = s.faultReq ∨
    ∃ (code : FaultCode) (w : Word32), p = .req32 w ∧ code.number ≠ 0 ∧
      t = State.afterFault { s with inputs := rest } code.number code w

/-- R233: each word the host presents gets exactly one status: REJECTED when `FAULT` was already nonzero,
FAULT(code) when this one raised it, DONE otherwise. -/
def Obligations.EachWordGetsOneStatus : Prop :=
  ∀ (s t : State) (p : PortWord) (rest : List HostInput),
    s.inputs = .word p :: rest → step s = .next t →
    ∃ st : Status, t.statuses = s.statuses ++ [st] ∧
      (st = .rejected ↔ s.fault ≠ 0) ∧
      (∀ code, st = .fault code ↔ s.fault = 0 ∧ t.fault = code.number) ∧
      (st = .done ↔ s.fault = 0 ∧ t.fault = 0)

/-- R45: which state elements each instruction may write. The elements of a fault and the levels aside,
the cursor is written by SETCUR, CLEAR, PUTC and PUTCAT alone, and every other element by its own setter. -/
def Obligations.OnlyItsOwnRequestsWriteARegister : Prop :=
  ∀ (i : Instr) (s t : State), exec i s = .next t →
    ((t.col ≠ s.col ∨ t.row ≠ s.row) →
      (∃ c p, i = .setcur c p) ∨ i = .clear ∨ (∃ c, i = .putc c) ∨ ∃ c x y, i = .putcat c x y) ∧
    (t.scale ≠ s.scale → ∃ v, i = .setscale v) ∧
    (t.aa ≠ s.aa → ∃ v, i = .setaa v) ∧
    ((t.fontValid ≠ s.fontValid ∨ t.fontBase ≠ s.fontBase ∨ t.fw ≠ s.fw ∨ t.ffirst ≠ s.ffirst ∨
      t.flast ≠ s.flast) → ∃ b, i = .setfont b) ∧
    (t.contrast ≠ s.contrast → ∃ v, i = .contrast v) ∧
    (t.orient ≠ s.orient → ∃ v, i = .rotate v) ∧
    (t.inverse ≠ s.inverse → ∃ v, i = .invert v) ∧
    t.inputs = s.inputs

/-- The block never reads anything back from the bus (R61), and its trace only grows at the end (R56): what
an instruction does and emits is the same whatever was emitted before. -/
def Obligations.TheBlockNeverReadsTheBus : Prop :=
  ∀ (i : Instr) (s t : State), exec i s = .next t →
    ∃ events, t.trace = s.trace ++ events ∧
      ∀ earlier, exec i { s with trace := earlier } = .next { t with trace := earlier ++ events }

/-- Every reset pulse a step emits lasts at least 3 microseconds and settles at least 5 milliseconds, in a
run whose parameters are legal (R108). -/
def Obligations.ResetPulsesKeepTheMinimums : Prop :=
  ∀ s t : State, legalParams s.params → step s = .next t →
    ∃ events, t.trace = s.trace ++ events ∧
      ∀ lowUs settleMs, .resetPulse lowUs settleMs ∈ events → 3 ≤ lowUs ∧ 5 ≤ settleMs

/-- Every command byte that a cursor or text request sends is a column-low, column-high or page command of
the wire table, with a column below 192 (R62, R82, R85, R105), under the default codes (log entry 4). -/
def Obligations.CursorCommandsStayOnTheSurface : Prop :=
  ∀ (i : Instr) (s t : State), s.Inv → s.params.regcode = RegCode.standard →
    ((∃ c p, i = .setcur c p) ∨ i = .clear ∨ (∃ c, i = .putc c) ∨ ∃ c x y, i = .putcat c x y) →
    exec i s = .next t →
    ∃ events, t.trace = s.trace ++ events ∧
      ∀ b ∈ commandBytes events, ∃ v : Byte,
        decode RegCode.standard Config.mapMask (.cmd8 b) = .ok (.wireColl v) ∨
        (decode RegCode.standard Config.mapMask (.cmd8 b) = .ok (.wireColh v) ∧ v.toNat < 12) ∨
        decode RegCode.standard Config.mapMask (.cmd8 b) = .ok (.wirePage v)

/-! ### Register command requests -/

/-- R110. -/
def Obligations.SendcmdSendsOneByte : Prop :=
  ∀ (s : State) (reg val : Byte), s.fault = 0 →
    (reg &&& val = 0 → exec (.sendcmd reg val) s =
      .next (s.afterSending (sentTransaction (sentFrame (reg ||| val))))) ∧
    (reg &&& val ≠ 0 → exec (.sendcmd reg val) s =
      .next (s.afterFault 4 .overlap (wordOf 0x01 reg.toNat val.toNat 0)))

/-- R111. -/
def Obligations.SetcurMovesTheCursor : Prop :=
  ∀ (s : State) (col page : Byte), s.fault = 0 →
    (col.toNat < 192 ∧ page.toNat < 8 → exec (.setcur col page) s =
      .next (State.afterSending { s with col := BitVec.ofNat 16 col.toNat, row := page }
        (sentTransaction (sentCursor s.params.regcode col.toNat page.toNat)))) ∧
    (192 ≤ col.toNat ∨ 8 ≤ page.toNat → exec (.setcur col page) s =
      .next (s.afterFault 5 .addrRange (wordOf 0x02 col.toNat page.toNat 0)))

/-- R112. -/
def Obligations.ContrastSendsTwoFrames : Prop :=
  ∀ (s : State) (v : Byte), s.fault = 0 →
    exec (.contrast v) s = .next (State.afterSending { s with contrast := v }
      (sentTransaction (sentFrame s.params.regcode.vbias ++ sentFrame v)))

/-- R113. -/
def Obligations.ScrollSendsTheLine : Prop :=
  ∀ (s : State) (line : Byte), s.fault = 0 →
    (line.toNat < 64 → exec (.scroll line) s =
      .next (s.afterSending (sentTransaction (sentFrame (s.params.regcode.scroll ||| line))))) ∧
    (64 ≤ line.toNat → exec (.scroll line) s =
      .next (s.afterFault 3 .valueRange (wordOf 0x04 line.toNat 0 0)))

/-- R114: a value inside the run's `MAP_MASK` is kept and sent; any other faults VALUE_RANGE. -/
def Obligations.RotateSetsTheOrientation : Prop :=
  ∀ (s : State) (v : Byte), s.fault = 0 →
    (v &&& ~~~s.params.mapMask = 0 → exec (.rotate v) s =
      .next (State.afterSending { s with orient := v }
        (sentTransaction (sentFrame (s.params.regcode.map ||| v))))) ∧
    (v &&& ~~~s.params.mapMask ≠ 0 → exec (.rotate v) s =
      .next (s.afterFault 3 .valueRange (wordOf 0x05 v.toNat 0 0)))

/-- R115. -/
def Obligations.InvertSetsTheInversion : Prop :=
  ∀ (s : State) (f : Byte), s.fault = 0 →
    (f.toNat ≤ 1 → exec (.invert f) s =
      .next (State.afterSending { s with inverse := BitVec.ofNat 1 f.toNat }
        (sentTransaction (sentFrame (s.params.regcode.inv ||| f))))) ∧
    (1 < f.toNat → exec (.invert f) s =
      .next (s.afterFault 3 .valueRange (wordOf 0x06 f.toNat 0 0)))

/-- R116 and R117: ALLON and DISPEN send their flag and write no state. -/
def Obligations.AllonAndDispenSendTheirFlag : Prop :=
  ∀ (s : State) (f : Byte), s.fault = 0 →
    (f.toNat ≤ 1 →
      exec (.allon f) s =
        .next (s.afterSending (sentTransaction (sentFrame (s.params.regcode.allon ||| f)))) ∧
      exec (.dispen f) s =
        .next (s.afterSending (sentTransaction (sentFrame (s.params.regcode.dispen ||| f))))) ∧
    (1 < f.toNat →
      exec (.allon f) s = .next (s.afterFault 3 .valueRange (wordOf 0x07 f.toNat 0 0)) ∧
      exec (.dispen f) s = .next (s.afterFault 3 .valueRange (wordOf 0x08 f.toNat 0 0)))

/-- R118 and R119: the display's two resets send a command, or one pulse outside any transaction, and leave
the block's own state, the cursor included, as it was. -/
def Obligations.DisplayResetsLeaveTheBlockAlone : Prop :=
  ∀ s : State, s.fault = 0 →
    exec .sysrst s =
      .next (s.afterSending (sentTransaction (sentFrame s.params.regcode.sysrst))) ∧
    exec .hwrst s =
      .next (s.afterPulse [.resetPulse s.params.resetLowUs s.params.resetSettleMs])

/-- R120: the pulse, then the frames of `INIT_SEQ` in one transaction; only the pulse if there are none. -/
def Obligations.InitPulsesThenSendsItsSequence : Prop :=
  ∀ (s : State) (cmds : List Byte), s.fault = 0 →
    initCommands s.params.initSeq s.contrast s.orient s.inverse = cmds →
    (cmds = [] → exec .init s =
      .next (s.afterPulse [.resetPulse s.params.resetLowUs s.params.resetSettleMs])) ∧
    (cmds ≠ [] → exec .init s =
      .next (s.afterSending (.resetPulse s.params.resetLowUs s.params.resetSettleMs ::
        sentTransaction (cmds.flatMap sentFrame))))

/-- The plain data that stands for `INIT_SEQ` leaves none out: every function of the display configuration
to lists of command bytes is one (R45, R120; the form is the model's, log entry 5). -/
def Obligations.InitSeqStandsForEveryFunction : Prop :=
  ∀ f : Byte → Byte → BitVec 1 → List Byte, ∃ q : InitSeq,
    ∀ contrast orient inverse, initCommands q contrast orient inverse = f contrast orient inverse

/-- R121: a pulse if `PWRDN_PULSE`, then the frames of `PWRDN_SEQ` in one transaction if there are any. -/
def Obligations.PwrdnSendsItsSequence : Prop :=
  ∀ s : State, s.fault = 0 →
    (s.params.pwrdnSeq = [] → exec .pwrdn s =
      .next (s.afterPulse (if s.params.pwrdnPulse then
        [.resetPulse s.params.resetLowUs s.params.resetSettleMs] else []))) ∧
    (s.params.pwrdnSeq ≠ [] → exec .pwrdn s =
      .next (s.afterSending ((if s.params.pwrdnPulse then
        [.resetPulse s.params.resetLowUs s.params.resetSettleMs] else []) ++
        sentTransaction (s.params.pwrdnSeq.flatMap sentFrame))))

/-- R122, with the counts of its example: 1612 events, 1560 of them `BYTE`, 24 of those commands. -/
def Obligations.ClearHomesAndSendsTheFullClear : Prop :=
  (∀ s : State, s.fault = 0 →
    exec .clear s = .next (State.afterSending { s with col := 0, row := 0 }
      (sentTransaction (sentClear s.params.regcode)))) ∧
  (∀ rc : RegCode, (sentTransaction (sentClear rc)).length = 1612 ∧
    byteCount (sentTransaction (sentClear rc)) = 1560 ∧
    (commandBytes (sentTransaction (sentClear rc))).length = 24)

/-! ### Wire commands -/

/-- Running a wire row sends its register command, base code OR value field, as one frame in one
transaction (R80, R84, R101, R103). That a wire row runs on its own is the model's choice (log entry 2). -/
def Obligations.WireCommandsSendOneFrame : Prop :=
  ∀ (s : State) (v : Byte), s.fault = 0 →
    exec (.wireColl v) s =
      .next (s.afterSending (sentTransaction (sentFrame (s.params.regcode.coll ||| v)))) ∧
    exec (.wireColh v) s =
      .next (s.afterSending (sentTransaction (sentFrame (s.params.regcode.colh ||| v)))) ∧
    exec (.wirePage v) s =
      .next (s.afterSending (sentTransaction (sentFrame (s.params.regcode.page ||| v)))) ∧
    exec (.wireScroll v) s =
      .next (s.afterSending (sentTransaction (sentFrame (s.params.regcode.scroll ||| v)))) ∧
    exec (.wireMap v) s =
      .next (s.afterSending (sentTransaction (sentFrame (s.params.regcode.map ||| v)))) ∧
    exec .wireVbias s =
      .next (s.afterSending (sentTransaction (sentFrame s.params.regcode.vbias))) ∧
    exec (.wireAllon v) s =
      .next (s.afterSending (sentTransaction (sentFrame (s.params.regcode.allon ||| v)))) ∧
    exec (.wireInv v) s =
      .next (s.afterSending (sentTransaction (sentFrame (s.params.regcode.inv ||| v)))) ∧
    exec (.wireDispen v) s =
      .next (s.afterSending (sentTransaction (sentFrame (s.params.regcode.dispen ||| v)))) ∧
    exec .wireSysrst s =
      .next (s.afterSending (sentTransaction (sentFrame s.params.regcode.sysrst))) ∧
    exec (.wireVbiasValue v) s = .next (s.afterSending (sentTransaction (sentFrame v)))

/-- A byte offered to the framer that the wire table knows goes out as that very byte, whichever row it
is: decoding it loses nothing (R80, R84, default codes of log entry 4, ports of log entry 2). -/
def Obligations.DecodedWireByteGoesOutUnchanged : Prop :=
  ∀ (s : State) (b : Byte) (i : Instr), s.fault = 0 →
    s.params.regcode = RegCode.standard → s.params.mapMask = Config.mapMask →
    decode RegCode.standard Config.mapMask (.cmd8 b) = .ok i →
    i.wellFormed = true ∧ encode i = .cmd8 b ∧
      exec i s = .next (s.afterSending (sentTransaction (sentFrame b)))

/-! ### Configuration setters -/

/-- R150: the header is latched, or FONT_OOB where it does not lie wholly in the font memory. -/
def Obligations.SetfontLatchesTheHeader : Prop :=
  ∀ (s : State) (b : BitVec 16), s.fault = 0 →
    (b.toNat + 3 < s.fm.size →
      ∃ width first last,
        s.fm.read b.toNat = some width ∧ s.fm.read (b.toNat + 2) = some first ∧
        s.fm.read (b.toNat + 3) = some last ∧
        exec (.setfont b) s = .next (State.afterSilence
          { s with fontBase := b, fw := width, ffirst := first, flast := last, fontValid := 1 })) ∧
    (s.fm.size ≤ b.toNat + 3 → exec (.setfont b) s =
      .next (s.afterFault 7 .fontOob (wordOf 0x0E (b.toNat / 256) (b.toNat % 256) 0)))

/-- R151 and R152: SETSCALE takes 1 and 2, ignores every other value and reports DONE either way; SETAA
takes 0 and 1 and faults on every other value. -/
def Obligations.SetscaleAndSetaaSetTheirRegister : Prop :=
  ∀ (s : State) (v : Byte), s.fault = 0 →
    (v = 1 → exec (.setscale v) s = .next (State.afterSilence { s with scale := 1 })) ∧
    (v = 2 → exec (.setscale v) s = .next (State.afterSilence { s with scale := 2 })) ∧
    (v ≠ 1 ∧ v ≠ 2 → exec (.setscale v) s = .next s.afterSilence) ∧
    (v.toNat ≤ 1 → exec (.setaa v) s =
      .next (State.afterSilence { s with aa := BitVec.ofNat 1 v.toNat })) ∧
    (1 < v.toNat → exec (.setaa v) s =
      .next (s.afterFault 3 .valueRange (wordOf 0x10 v.toNat 0 0)))

/-! ### Text -/

/-- Before any font is selected PUTC faults with NO_FONT, whatever the code (R28, R170), and so does PUTCAT
at a position on the surface (R171); at one off the surface it faults with ADDR_RANGE first (R234). -/
def Obligations.CharactersNeedAFont : Prop :=
  ∀ (s : State) (code col row : Byte), s.fault = 0 → s.fontValid = 0 →
    exec (.putc code) s = .next (s.afterFault 6 .noFont (wordOf 0x11 code.toNat 0 0)) ∧
    (col.toNat < 192 ∧ row.toNat < 8 → exec (.putcat code col row) s =
      .next (s.afterFault 6 .noFont (wordOf 0x12 code.toNat col.toNat row.toNat))) ∧
    (192 ≤ col.toNat ∨ 8 ≤ row.toNat → exec (.putcat code col row) s =
      .next (s.afterFault 5 .addrRange (wordOf 0x12 code.toNat col.toNat row.toNat)))

/-- R157 and R164: CR sets the column to 0 and sends nothing; a code that is no control code and not in the
font's range changes nothing, sends nothing and reports DONE. -/
def Obligations.CarriageReturnAndUnknownCodesSendNothing : Prop :=
  ∀ (s : State) (c : Byte), s.fault = 0 → s.fontValid = 1 →
    exec (.putc 0x0D) s = .next (State.afterSilence { s with col := 0 }) ∧
    (c ≠ 0x0D ∧ c ≠ 0x0A ∧ c ≠ 0x09 ∧ c ≠ 0x08 ∧ (c.toNat < s.ffirst.toNat ∨ s.flast.toNat < c.toNat) →
      exec (.putc c) s = .next s.afterSilence)

/-- R158: the next line with its reposition, a dropped reposition past the right edge, or the overflow
clear. -/
def Obligations.LineFeedMovesDownOrClears : Prop :=
  ∀ s : State, s.fault = 0 → s.fontValid = 1 →
    (s.row.toNat + s.scale.toNat < 8 ∧ s.col.toNat < 192 → exec (.putc 0x0A) s =
      .next (State.afterSending { s with row := BitVec.ofNat 8 (s.row.toNat + s.scale.toNat) }
        (sentTransaction
          (sentCursor s.params.regcode s.col.toNat (s.row.toNat + s.scale.toNat))))) ∧
    (s.row.toNat + s.scale.toNat < 8 ∧ 192 ≤ s.col.toNat → exec (.putc 0x0A) s =
      .next (State.afterSilence { s with row := BitVec.ofNat 8 (s.row.toNat + s.scale.toNat) })) ∧
    (8 ≤ s.row.toNat + s.scale.toNat → exec (.putc 0x0A) s =
      .next (State.afterSending { s with col := 0, row := 0 }
        (sentTransaction (sentClear s.params.regcode ++ sentCursor s.params.regcode 0 0))))

/-- R159: four advances to the right with a reposition on the surface, none off it, and CURSOR_OVERFLOW past
65535. -/
def Obligations.TabAdvancesFourGlyphs : Prop :=
  ∀ (s : State) (n : Nat), s.fault = 0 → s.fontValid = 1 → n = s.col.toNat + 4 * glyphAdvance s →
    (n < 192 ∧ s.row.toNat < 8 → exec (.putc 0x09) s =
      .next (State.afterSending { s with col := BitVec.ofNat 16 n }
        (sentTransaction (sentCursor s.params.regcode n s.row.toNat)))) ∧
    ((192 ≤ n ∨ 8 ≤ s.row.toNat) ∧ n ≤ 65535 → exec (.putc 0x09) s =
      .next (State.afterSilence { s with col := BitVec.ofNat 16 n })) ∧
    (65535 < n → exec (.putc 0x09) s =
      .next (s.afterFault 9 .cursorOverflow (wordOf 0x11 0x09 0 0)))

/-- R160: one advance to the left, not past column 0, with a reposition on the surface and never a data
byte. -/
def Obligations.BackspaceMovesOneGlyphBack : Prop :=
  ∀ (s : State) (n : Nat), s.fault = 0 → s.fontValid = 1 → n = s.col.toNat - glyphAdvance s →
    (n < 192 ∧ s.row.toNat < 8 → exec (.putc 0x08) s =
      .next (State.afterSending { s with col := BitVec.ofNat 16 n }
        (sentTransaction (sentCursor s.params.regcode n s.row.toNat)))) ∧
    (192 ≤ n ∨ 8 ≤ s.row.toNat → exec (.putc 0x08) s =
      .next (State.afterSilence { s with col := BitVec.ofNat 16 n }))

/-- R163: GLYPH_WIDTH at scale 2 for a font that is not 5 columns wide, and only then FONT_OOB for a glyph
that does not lie wholly in the font memory; where neither applies, no fault. -/
def Obligations.GlyphChecksComeFirst : Prop :=
  ∀ (s : State) (c : Byte), s.fault = 0 → s.fontValid = 1 → printableCode s c →
    (s.scale = 2 ∧ s.fw ≠ 5 → exec (.putc c) s =
      .next (s.afterFault 8 .glyphWidth (wordOf 0x11 c.toNat 0 0))) ∧
    (¬ (s.scale = 2 ∧ s.fw ≠ 5) ∧ 0 < s.fw.toNat ∧ s.fm.size < glyphStart s c + s.fw.toNat →
      exec (.putc c) s = .next (s.afterFault 7 .fontOob (wordOf 0x11 c.toNat 0 0))) ∧
    (¬ (s.scale = 2 ∧ s.fw ≠ 5) ∧ glyphPresent s c → ∃ t, exec (.putc c) s = .next t ∧ t.fault = 0)

/-- A printable code left of the right edge is drawn at the cursor, at 1x or 2x, smoothed or not, clipped on
the last page at 2x, and the cursor advances (R161, R165 to R168). -/
def Obligations.PutcPrintsAtTheCursor : Prop :=
  ∀ (s : State) (c : Byte), s.fault = 0 → s.fontValid = 1 → drawableScale s → printableCode s c →
    glyphPresent s c → s.col.toNat < 192 →
    ∃ g, glyphColumns s c g ∧ exec (.putc c) s =
      .next (State.afterSending { s with col := BitVec.ofNat 16 (s.col.toNat + glyphAdvance s) }
        (sentTransaction (sentGlyph s g s.col.toNat s.row.toNat)))

/-- A printable code at or past the right edge wraps first, to the next line or into the overflow clear,
with the wrap's own reposition before the glyph's (R155, R161, R162). -/
def Obligations.PutcWrapsThenPrints : Prop :=
  ∀ (s : State) (c : Byte), s.fault = 0 → s.fontValid = 1 → drawableScale s → printableCode s c →
    glyphPresent s c → 192 ≤ s.col.toNat →
    ∃ g, glyphColumns s c g ∧
      (s.row.toNat + s.scale.toNat < 8 → exec (.putc c) s =
        .next (State.afterSending
          { s with col := BitVec.ofNat 16 (glyphAdvance s),
                   row := BitVec.ofNat 8 (s.row.toNat + s.scale.toNat) }
          (sentTransaction (sentCursor s.params.regcode 0 (s.row.toNat + s.scale.toNat) ++
            sentGlyph s g 0 (s.row.toNat + s.scale.toNat))))) ∧
      (8 ≤ s.row.toNat + s.scale.toNat → exec (.putc c) s =
        .next (State.afterSending { s with col := BitVec.ofNat 16 (glyphAdvance s), row := 0 }
          (sentTransaction (sentClear s.params.regcode ++ sentCursor s.params.regcode 0 0 ++
            sentGlyph s g 0 0))))

/-- After a printable PUTC that does not fault the column is at most 703 (R161). -/
def Obligations.PrintedColumnStaysBelow704 : Prop :=
  ∀ (s t : State) (c : Byte), s.Inv → s.fault = 0 → printableCode s c →
    exec (.putc c) s = .next t → t.fault = 0 → t.col.toNat ≤ 703

/-- PUTCAT checks the position, then is PUTC at that position; where PUTC faults there, PUTCAT takes the
same fault and the cursor keeps its old place (R171). -/
def Obligations.PutcatIsPutcAtThePosition : Prop :=
  ∀ (s : State) (code col row : Byte), s.fault = 0 → s.fontValid = 1 →
    (192 ≤ col.toNat ∨ 8 ≤ row.toNat → exec (.putcat code col row) s =
      .next (s.afterFault 5 .addrRange (wordOf 0x12 code.toNat col.toNat row.toNat))) ∧
    (col.toNat < 192 ∧ row.toNat < 8 →
      ∃ t, exec (.putc code) { s with col := BitVec.ofNat 16 col.toNat, row := row } = .next t ∧
        (t.fault = 0 → exec (.putcat code col row) s = .next t) ∧
        (t.fault ≠ 0 → ∃ fc : FaultCode, fc.number = t.fault ∧ exec (.putcat code col row) s =
          .next (s.afterFault t.fault fc (wordOf 0x12 code.toNat col.toNat row.toNat))))

/-- PUTCAT of a printable code draws it at the position it names and advances from there (R161, R165 to
R168, R171). -/
def Obligations.PutcatPrintsAtThePosition : Prop :=
  ∀ (s : State) (code col row : Byte), s.fault = 0 → s.fontValid = 1 → drawableScale s →
    printableCode s code → glyphPresent s code → col.toNat < 192 → row.toNat < 8 →
    ∃ g, glyphColumns s code g ∧ exec (.putcat code col row) s =
      .next (State.afterSending
        { s with col := BitVec.ofNat 16 (col.toNat + glyphAdvance s), row := row }
        (sentTransaction (sentGlyph s g col.toNat row.toNat)))

/-- R174: a PUTC that does not print sends no data byte, except the 1536 zero bytes of an overflow clear,
which only LF sends. -/
def Obligations.OnlyPrintableCodesSendData : Prop :=
  ∀ (s t : State) (c : Byte), ¬ printableCode s c → exec (.putc c) s = .next t →
    ∃ events, t.trace = s.trace ++ events ∧
      (sentData events = [] ∨ c = 0x0A ∧ sentData events = List.replicate 1536 0)

/-- R169: the command and data bytes of a glyph: 3 and `FW + 1` at 1x; 6 and 24 at 2x, or 3 and 12 when
clipped. -/
def Obligations.GlyphByteCounts : Prop :=
  ∀ (s t : State) (c : Byte), s.fault = 0 → s.fontValid = 1 → drawableScale s → printableCode s c →
    glyphPresent s c → s.col.toNat < 192 → exec (.putc c) s = .next t →
    ∃ events, t.trace = s.trace ++ events ∧
      (s.scale = 1 → (commandBytes events).length = 3 ∧ (sentData events).length = s.fw.toNat + 1) ∧
      (s.scale = 2 ∧ s.row.toNat < 7 →
        (commandBytes events).length = 6 ∧ (sentData events).length = 24) ∧
      (s.scale = 2 ∧ 7 ≤ s.row.toNat →
        (commandBytes events).length = 3 ∧ (sentData events).length = 12)

/-- At scale 1 the smoothing flag has no effect on a character (R27, R152). -/
def Obligations.SmoothingFlagIsIdleAtScale1 : Prop :=
  ∀ (s t : State) (c : Byte) (f : BitVec 1), s.scale = 1 → exec (.putc c) s = .next t →
    exec (.putc c) { s with aa := f } = .next { t with aa := f }

/-- R172: from column 0, one glyph more than a full line wraps: the column is one advance from the left and
the row has moved down by the scale, or the display was cleared. -/
def Obligations.OneGlyphPastAFullLineWraps : Prop :=
  ∀ (s : State) (codes : List Byte), s.fault = 0 → s.fontValid = 1 → drawableScale s →
    (∀ c ∈ codes, printableCode s c ∧ glyphPresent s c) → s.col = 0 →
    codes.length = (192 + glyphAdvance s - 1) / glyphAdvance s + 1 →
    ∃ t, execAll (codes.map .putc) s = .next t ∧ t.fault = 0 ∧ t.col.toNat = glyphAdvance s ∧
      (s.row.toNat + s.scale.toNat < 8 → t.row.toNat = s.row.toNat + s.scale.toNat) ∧
      (8 ≤ s.row.toNat + s.scale.toNat → t.row = 0 ∧
        ∃ before after, t.trace = s.trace ++ before ++ sentClear s.params.regcode ++ after)

/-- R173: from row 0 the eighth LF at scale 1, or the fourth at scale 2, clears the display and goes home;
the ones before it only move down. -/
def Obligations.LineFeedsOverflowIntoAClear : Prop :=
  ∀ (s : State) (n : Nat), s.fault = 0 → s.fontValid = 1 → s.row = 0 →
    (s.scale = 1 ∧ n = 7 ∨ s.scale = 2 ∧ n = 3) →
    ∃ t u, execAll (List.replicate n (.putc 0x0A)) s = .next t ∧
      t.row.toNat = n * s.scale.toNat ∧ t.col = s.col ∧
      exec (.putc 0x0A) t = .next u ∧ u.row = 0 ∧ u.col = 0 ∧
      u.trace = t.trace ++
        sentTransaction (sentClear s.params.regcode ++ sentCursor s.params.regcode 0 0)

/-! ### Stretch and smoothing -/

/-- R200 and R201: bits `2i` and `2i+1` of the stretched column are both bit `i` of the byte, and the
constant-time form gives the same column. -/
def Obligations.StretchDoublesEachBit : Prop :=
  ∀ b : Byte, stretchFast b = stretch b ∧
    ∀ i, i < 8 →
      (stretch b).getLsbD (2 * i) = b.getLsbD i ∧ (stretch b).getLsbD (2 * i + 1) = b.getLsbD i

/-- R202: the even bits, and the odd bits, give the byte back; the odd bits are the even bits shifted; each
output byte depends on one nibble; and the population count doubles. -/
def Obligations.StretchCanBeUndone : Prop :=
  ∀ b c : Byte,
    decimate (stretch b) = b ∧ decimate (stretch b >>> 1) = b ∧
    (stretch b = stretch c → b = c) ∧
    stretch b &&& 0xAAAA = (stretch b &&& 0x5555) <<< 1 ∧
    (b &&& 0x0F = c &&& 0x0F → lowByte (stretch b) = lowByte (stretch c)) ∧
    (b &&& 0xF0 = c &&& 0xF0 → highByte (stretch b) = highByte (stretch c)) ∧
    ((List.range 16).countP fun i => (stretch b).getLsbD i) =
      2 * ((List.range 8).countP fun i => b.getLsbD i)

/-- R203: 24 bytes; raw columns 0 and 1 are the doubled padding, raw columns `2k` and `2k+1` the stretched
glyph column `k-1`, low half first, high half 12 bytes on. -/
def Obligations.BuildStretchDoublesTheColumns : Prop :=
  ∀ g : List Byte, g.length = 5 →
    (buildStretch g).length = 24 ∧
    (∀ x ∈ [0, 1, 12, 13], (buildStretch g)[x]? = some 0) ∧
    ∀ (k : Nat) (b : Byte), g[k]? = some b →
      (buildStretch g)[2 * k + 2]? = some (lowByte (stretch b)) ∧
      (buildStretch g)[2 * k + 3]? = some (lowByte (stretch b)) ∧
      (buildStretch g)[2 * k + 14]? = some (highByte (stretch b)) ∧
      (buildStretch g)[2 * k + 15]? = some (highByte (stretch b))

/-- R205: each raw column of the smoothed buffer is the column before the pass with what its two pairs add,
both judged on the buffer before the pass. -/
def Obligations.SmoothDecidesOnTheSnapshot : Prop :=
  ∀ v : List Byte, v.length = 24 →
    (smooth v).length = 24 ∧
    ∀ x, x < 12 →
      bufferColumn (smooth v) x = bufferColumn v x |||
        (if 1 ≤ x ∧ x ≤ 10 then (pairAdds (bufferColumn v x) (bufferColumn v (x + 1))).1 else 0) |||
        (if 2 ≤ x then (pairAdds (bufferColumn v (x - 1)) (bufferColumn v x)).2 else 0)

/-- R204 and R205: what the windows of one pair of raw columns add. A left bit is added one row above a
`1100` over `0011` step, or two rows above a `0011` over `1100` step; a right bit the other way round. -/
def Obligations.PairAddsFillTheDiagonal : Prop :=
  ∀ (l r : Column) (k : Nat),
    let step (u : Column) (o : Nat) (hi : Bool) : Prop :=
      u.getLsbD o = !hi ∧ u.getLsbD (o + 1) = !hi ∧ u.getLsbD (o + 2) = hi ∧ u.getLsbD (o + 3) = hi
    ((pairAdds l r).1.getLsbD k = true ↔
      ∃ o ∈ [0, 2, 4, 6, 8, 10],
        (k = o + 1 ∧ step l o true ∧ step r o false) ∨ (k = o + 2 ∧ step l o false ∧ step r o true)) ∧
    ((pairAdds l r).2.getLsbD k = true ↔
      ∃ o ∈ [0, 2, 4, 6, 8, 10],
        (k = o + 2 ∧ step l o true ∧ step r o false) ∨ (k = o + 1 ∧ step l o false ∧ step r o true))

/-- R206: the pass never clears a bit, leaves raw column 0 and bits 0, 13, 14 and 15 of every column as they
were, and a pair of equal columns adds nothing. -/
def Obligations.SmoothOnlyAddsInnerBits : Prop :=
  (∀ v : List Byte, v.length = 24 →
    ∀ i, i < 24 →
      bufferByte (smooth v) i &&& bufferByte v i = bufferByte v i ∧
      (i = 0 ∨ i = 12 → bufferByte (smooth v) i = bufferByte v i) ∧
      (i < 12 → (bufferByte (smooth v) i).getLsbD 0 = (bufferByte v i).getLsbD 0) ∧
      (12 ≤ i → ∀ k, 5 ≤ k → k < 8 →
        (bufferByte (smooth v) i).getLsbD k = (bufferByte v i).getLsbD k)) ∧
  ∀ u : Column, pairAdds u u = (0, 0)

/-! ### Assembler -/

/-- R93: the pseudo-requests `home` and `newline`. -/
def Obligations.HomeAndNewlineExpand : Prop :=
  assembleLine "home".toList = some [.req32 0x02000000] ∧
  assembleLine "newline".toList = some [.req32 0x110D0000, .req32 0x110A0000]

/-- `string` with a text that needs no escape is one PUTC word for each character, in order (R92). The ASCII
restriction, the blank after the mnemonic, and that a semicolon in the text starts no comment are the model's
choice (log entry 15). -/
def Obligations.StringIsOnePutcPerCharacter : Prop :=
  ∀ cs : List Char, (∀ c ∈ cs, c.toNat < 128 ∧ c.toNat ≠ 34 ∧ c.toNat ≠ 92) →
    assembleLine ("string ".toList ++ Char.ofNat 34 :: (cs ++ [Char.ofNat 34])) =
      some (cs.map fun c => .req32 (wordOf 0x11 c.toNat 0 0))
end

