-- ==== Sys2Proof/Laws/Bus.lean ====
section
/-! SUPPORT. The framing primitives (40_framer.md R101 to R106): the levels they leave, the phases they go
through, and their plain forms. -/

namespace Sys2Proof.Machine

/-! ### Levels -/

@[simp] theorem driveCs_nil (l : CsLevel) : driveCs l [] = l := rfl

@[simp] theorem driveCd_nil (l : CdLevel) : driveCd l [] = l := rfl

@[simp] theorem driveCs_cons (l : CsLevel) (e : BusEvent) (es : List BusEvent) :
    driveCs l (e :: es) = driveCs (l.after e) es := rfl

@[simp] theorem driveCd_cons (l : CdLevel) (e : BusEvent) (es : List BusEvent) :
    driveCd l (e :: es) = driveCd (l.after e) es := rfl

@[simp] theorem driveCs_append (l : CsLevel) (xs ys : List BusEvent) :
    driveCs l (xs ++ ys) = driveCs (driveCs l xs) ys := List.foldl_append ..

@[simp] theorem driveCd_append (l : CdLevel) (xs ys : List BusEvent) :
    driveCd l (xs ++ ys) = driveCd (driveCd l xs) ys := List.foldl_append ..

/-! ### Bodies of transactions -/

/-- A body is framed when it is nothing but command frames and data bytes (R100). -/
inductive FramedBody : List BusEvent → Prop where
  | nil : FramedBody []
  | frame (b : Byte) {rest : List BusEvent} : FramedBody rest → FramedBody (cmdFrame b ++ rest)
  | data (b : Byte) {rest : List BusEvent} : FramedBody rest → FramedBody (.byte b :: rest)

theorem FramedBody.append {xs ys : List BusEvent} (hx : FramedBody xs) (hy : FramedBody ys) :
    FramedBody (xs ++ ys) := by
  induction hx with
  | nil => exact hy
  | frame b _ ih => exact .frame b ih
  | data b _ ih => exact .data b ih

theorem framedBody_cmdFrame (b : Byte) : FramedBody (cmdFrame b) := by
  simpa using FramedBody.frame b .nil

theorem framedBody_dataBytes : ∀ bs : List Byte, FramedBody (dataBytes bs)
  | [] => .nil
  | b :: bs => .data b (framedBody_dataBytes bs)

theorem framedBody_cmdFrames : ∀ bs : List Byte, FramedBody (cmdFrames bs)
  | [] => .nil
  | b :: bs => .frame b (framedBody_cmdFrames bs)

theorem framedBody_cursorSet (rc : RegCode) (c p : Nat) : FramedBody (cursorSet rc c p) :=
  ((framedBody_cmdFrame _).append (framedBody_cmdFrame _)).append (framedBody_cmdFrame _)

theorem framedBody_clearPages (rc : RegCode) :
    ∀ ps : List Nat, FramedBody (ps.flatMap (clearPage rc))
  | [] => .nil
  | p :: ps =>
    ((framedBody_cursorSet rc 0 p).append (framedBody_dataBytes _)).append (framedBody_clearPages rc ps)

theorem framedBody_clearBody (rc : RegCode) : FramedBody (clearBody rc) := framedBody_clearPages rc _

/-- A framed body moves the chip select nowhere. -/
theorem FramedBody.driveCs {xs : List BusEvent} (h : FramedBody xs) (l : CsLevel) :
    Machine.driveCs l xs = l := by
  induction h generalizing l with
  | nil => rfl
  | frame b _ ih => simp [cmdFrame, CsLevel.after, ih]
  | data b _ ih => simp [CsLevel.after, ih]

/-- A framed body leaves the data level where it found it (10_state.md R37). -/
theorem FramedBody.driveCd {xs : List BusEvent} (h : FramedBody xs) :
    Machine.driveCd .data xs = .data := by
  induction h with
  | nil => rfl
  | frame b _ ih => simp [cmdFrame, CdLevel.after, ih]
  | data b _ ih => simp [CdLevel.after, ih]

/-- A framed body that begins with a command frame leaves the data level, wherever it began. -/
theorem FramedBody.driveCd_frame (b : Byte) {xs : List BusEvent} (h : FramedBody xs) (l : CdLevel) :
    Machine.driveCd l (cmdFrame b ++ xs) = .data := by
  simp [cmdFrame, CdLevel.after, h.driveCd]

/-! ### Phases -/

@[simp] theorem BusPhase.run_nil (p : BusPhase) : p.run [] = some p := rfl

theorem BusPhase.run_append (p : BusPhase) (xs ys : List BusEvent) :
    p.run (xs ++ ys) = (p.run xs).bind (·.run ys) := by
  induction xs generalizing p with
  | nil => rfl
  | cons e rest ih =>
    simp only [List.cons_append, BusPhase.run]
    cases p.next e with
    | none => rfl
    | some q => exact ih q

/-- Inside a transaction a framed body stays inside it. -/
theorem FramedBody.run_body {xs : List BusEvent} (h : FramedBody xs) :
    BusPhase.body.run xs = some .body := by
  induction h with
  | nil => rfl
  | frame b _ ih => simpa [cmdFrame, BusPhase.run, BusPhase.next] using ih
  | data b _ ih => simpa [BusPhase.run, BusPhase.next] using ih

/-- After the chip select is asserted a framed body that is not empty opens the transaction's body. -/
theorem FramedBody.run_selected {xs : List BusEvent} (h : FramedBody xs) (hne : xs ≠ []) :
    BusPhase.selected.run xs = some .body := by
  cases h with
  | nil => exact absurd rfl hne
  | frame b h => simpa [cmdFrame, BusPhase.run, BusPhase.next] using h.run_body
  | data b h => simpa [BusPhase.run, BusPhase.next] using h.run_body

theorem txn_of_ne_nil {body : List BusEvent} (h : body ≠ []) :
    txn body = sentTransaction body := by
  simp [txn, sentTransaction, h]

@[simp] theorem txn_nil : txn [] = [] := rfl

/-- A transaction of a framed body goes from idle to idle (R103, R124). -/
theorem FramedBody.run_txn {xs : List BusEvent} (h : FramedBody xs) :
    BusPhase.idle.run (txn xs) = some .idle := by
  by_cases hne : xs = []
  · simp [hne]
  · rw [txn_of_ne_nil hne, sentTransaction]
    simp only [BusPhase.run, BusPhase.next, BusPhase.run_append, h.run_selected hne]
    rfl

/-- A transaction of a framed body leaves the chip select deasserted, wherever it was. -/
theorem FramedBody.driveCs_txn {xs : List BusEvent} (h : FramedBody xs) (hne : xs ≠ []) (l : CsLevel) :
    Machine.driveCs l (txn xs) = .deasserted := by
  rw [txn_of_ne_nil hne, sentTransaction]
  simp [CsLevel.after, h.driveCs]

/-- A transaction of a framed body keeps the data level. -/
theorem FramedBody.driveCd_txn {xs : List BusEvent} (h : FramedBody xs) :
    Machine.driveCd .data (txn xs) = .data := by
  by_cases hne : xs = []
  · simp [hne]
  · rw [txn_of_ne_nil hne, sentTransaction]
    simp [CdLevel.after, h.driveCd]

/-- A transaction whose body begins with a command frame leaves the data level, wherever it was. -/
theorem FramedBody.driveCd_txn_frame (b : Byte) {xs : List BusEvent} (h : FramedBody xs) (l : CdLevel) :
    Machine.driveCd l (txn (cmdFrame b ++ xs)) = .data := by
  rw [txn_of_ne_nil (by simp [cmdFrame]), sentTransaction]
  simp [cmdFrame, CdLevel.after, h.driveCd]

/-! ### Plain forms -/

theorem cmdFrame_eq_sentFrame (b : Byte) : cmdFrame b = sentFrame b := rfl

theorem cmdFrames_eq (bs : List Byte) : cmdFrames bs = bs.flatMap sentFrame := rfl

theorem cursorSet_eq_sentCursor (rc : RegCode) {c : Nat} (p : Nat) (h : c < 256) :
    cursorSet rc c p = sentCursor rc c p := by
  have e : c / 16 % 16 = c / 16 := Nat.mod_eq_of_lt (by omega)
  simp only [cursorSet, sentCursor, cmdFrame_eq_sentFrame, e]

theorem clearPage_eq (rc : RegCode) (p : Nat) :
    clearPage rc p = sentCursor rc 0 p ++ List.replicate 192 (.byte 0) := by
  rw [clearPage, cursorSet_eq_sentCursor rc p (by omega), dataBytes, List.map_replicate]

theorem clearBody_eq_sentClear (rc : RegCode) : clearBody rc = sentClear rc := by
  have e : clearPage rc = fun p => sentCursor rc 0 p ++ List.replicate 192 (.byte 0) :=
    funext (clearPage_eq rc)
  rw [clearBody, sentClear, e]

theorem cmdFrame_ne_nil (b : Byte) : cmdFrame b ≠ [] := by simp [cmdFrame]

theorem cursorSet_ne_nil (rc : RegCode) (c p : Nat) : cursorSet rc c p ≠ [] := by simp [cursorSet, cmdFrame]

/-- The cursor-set as one frame and the rest. -/
theorem cursorSet_eq_cons (rc : RegCode) (c p : Nat) :
    ∃ b rest, cursorSet rc c p = cmdFrame b ++ rest ∧ FramedBody rest :=
  ⟨_, _, List.append_assoc .., (framedBody_cmdFrame _).append (framedBody_cmdFrame _)⟩

/-- The clear as one frame and the rest. -/
theorem clearBody_eq_cons (rc : RegCode) :
    ∃ b rest, clearBody rc = cmdFrame b ++ rest ∧ FramedBody rest := by
  obtain ⟨b, rest, h, hr⟩ := cursorSet_eq_cons rc 0 0
  refine ⟨b, rest ++ dataBytes (List.replicate Config.width 0x00) ++
    ([1, 2, 3, 4, 5, 6, 7].flatMap (clearPage rc)), ?_,
    (hr.append (framedBody_dataBytes _)).append (framedBody_clearPages rc _)⟩
  have e : clearBody rc = clearPage rc 0 ++ [1, 2, 3, 4, 5, 6, 7].flatMap (clearPage rc) := rfl
  rw [e, clearPage, h]
  simp only [List.append_assoc]

/-! ### Command and data bytes -/

/-- The command bytes of a framed body and what follows it. -/
theorem FramedBody.commandBytes_append {xs : List BusEvent} (h : FramedBody xs) (ys : List BusEvent) :
    commandBytes (xs ++ ys) = commandBytes xs ++ commandBytes ys := by
  induction h with
  | nil => rfl
  | frame b _ ih => simp [cmdFrame, commandBytes, ih]
  | data b _ ih => simp [commandBytes, ih]

/-- The data bytes of a framed body and what follows it. -/
theorem FramedBody.sentData_append {xs : List BusEvent} (h : FramedBody xs) (ys : List BusEvent) :
    sentData (xs ++ ys) = sentData xs ++ sentData ys := by
  induction h with
  | nil => rfl
  | frame b _ ih => simp [cmdFrame, sentData, ih]
  | data b _ ih => simp [sentData, ih]

theorem FramedBody.commandBytes_txn {xs : List BusEvent} (h : FramedBody xs) :
    commandBytes (sentTransaction xs) = commandBytes xs := by
  simp [sentTransaction, commandBytes, h.commandBytes_append]

theorem FramedBody.sentData_txn {xs : List BusEvent} (h : FramedBody xs) :
    sentData (sentTransaction xs) = sentData xs := by
  simp [sentTransaction, sentData, h.sentData_append]

theorem commandBytes_dataBytes (bs : List Byte) : commandBytes (dataBytes bs) = [] := by
  induction bs with
  | nil => rfl
  | cons b bs ih => exact ih

theorem sentData_dataBytes (bs : List Byte) : sentData (dataBytes bs) = bs := by
  induction bs with
  | nil => rfl
  | cons b bs ih => exact congrArg (b :: ·) ih

theorem commandBytes_cursorSet (rc : RegCode) (c p : Nat) :
    commandBytes (cursorSet rc c p) =
      [rc.coll ||| BitVec.ofNat 8 (c % 16), rc.colh ||| BitVec.ofNat 8 (c / 16 % 16),
        rc.page ||| BitVec.ofNat 8 p] := rfl

theorem sentData_cursorSet (rc : RegCode) (c p : Nat) : sentData (cursorSet rc c p) = [] := rfl

end Sys2Proof.Machine
end

