-- ==== Sys2Proof/Laws/Decode.lean ====
section
/-! SUPPORT. Request words and their fields (30_encoding.md R71): what the fields of a built word are, that
the fields build the word back, and its value as a number. -/

namespace Sys2Proof

@[simp] theorem fieldOp_requestWord (op a b c : Byte) : fieldOp (requestWord op a b c) = op := by
  apply BitVec.eq_of_getLsbD_eq
  intro i hi
  simp only [fieldOp, requestWord, BitVec.getLsbD_extractLsb', BitVec.getLsbD_append, hi, decide_true,
    Bool.true_and, show ¬ 24 + i < 8 by omega, show ¬ 24 + i - 8 < 8 by omega,
    show ¬ 24 + i - 8 - 8 < 8 by omega, if_false, show 24 + i - 8 - 8 - 8 = i by omega]

@[simp] theorem fieldA_requestWord (op a b c : Byte) : fieldA (requestWord op a b c) = a := by
  apply BitVec.eq_of_getLsbD_eq
  intro i hi
  simp only [fieldA, requestWord, BitVec.getLsbD_extractLsb', BitVec.getLsbD_append, hi, decide_true,
    Bool.true_and, show ¬ 16 + i < 8 by omega, show ¬ 16 + i - 8 < 8 by omega,
    if_false, if_true, show 16 + i - 8 - 8 = i by omega]

@[simp] theorem fieldB_requestWord (op a b c : Byte) : fieldB (requestWord op a b c) = b := by
  apply BitVec.eq_of_getLsbD_eq
  intro i hi
  simp only [fieldB, requestWord, BitVec.getLsbD_extractLsb', BitVec.getLsbD_append, hi, decide_true,
    Bool.true_and, show ¬ 8 + i < 8 by omega, if_false, if_true,
    show 8 + i - 8 = i by omega]

@[simp] theorem fieldC_requestWord (op a b c : Byte) : fieldC (requestWord op a b c) = c := by
  apply BitVec.eq_of_getLsbD_eq
  intro i hi
  simp only [fieldC, requestWord, BitVec.getLsbD_extractLsb', BitVec.getLsbD_append, hi, decide_true,
    Bool.true_and, if_true, Nat.zero_add]

/-- A word is built back from its four fields: they leave no bit out. -/
theorem requestWord_fields (w : Word32) :
    requestWord (fieldOp w) (fieldA w) (fieldB w) (fieldC w) = w := by
  apply BitVec.eq_of_getLsbD_eq
  intro i hi
  simp only [requestWord, fieldOp, fieldA, fieldB, fieldC, BitVec.getLsbD_append,
    BitVec.getLsbD_extractLsb']
  split
  · rename_i h
    simp [h]
  · split
    · rename_i h₁ h
      simp [h, show 8 + (i - 8) = i by omega]
    · split
      · rename_i h₁ h₂ h
        simp [h, show 16 + (i - 8 - 8) = i by omega]
      · rename_i h₁ h₂ h
        simp [show i - 8 - 8 - 8 < 8 by omega, show 24 + (i - 8 - 8 - 8) = i by omega]

theorem fieldFbase_eq (w : Word32) : fieldFbase w = fieldA w ++ fieldB w := by
  apply BitVec.eq_of_getLsbD_eq
  intro i hi
  simp only [fieldFbase, fieldA, fieldB, BitVec.getLsbD_append, BitVec.getLsbD_extractLsb']
  split
  · rename_i h
    simp [h, hi]
  · simp [hi, show i - 8 < 8 by omega, show 16 + (i - 8) = 8 + i by omega]

/-- SETFONT's word as a word of four fields. -/
theorem setfontWord_eq (b : BitVec 16) :
    setfontWord b = requestWord 0x0E (b.extractLsb' 8 8) (b.extractLsb' 0 8) 0x00 := by
  have e : b = b.extractLsb' 8 8 ++ b.extractLsb' 0 8 := by
    apply BitVec.eq_of_getLsbD_eq
    intro i hi
    simp only [BitVec.getLsbD_append, BitVec.getLsbD_extractLsb']
    split
    · rename_i h
      simp [h]
    · simp [show i - 8 < 8 by omega, show 8 + (i - 8) = i by omega]
  conv_lhs => rw [e]
  simp only [setfontWord, requestWord, BitVec.append_assoc, BitVec.cast_eq]

theorem append_toNat {n m : Nat} (x : BitVec n) (y : BitVec m) :
    (x ++ y).toNat = x.toNat * 2 ^ m + y.toNat := by
  rw [BitVec.toNat_append, ← Nat.shiftLeft_add_eq_or_of_lt y.isLt, Nat.shiftLeft_eq]

/-- The value of a request word (R71). -/
theorem requestWord_toNat (op a b c : Byte) :
    (requestWord op a b c).toNat =
      op.toNat * 2 ^ 24 + a.toNat * 2 ^ 16 + b.toNat * 2 ^ 8 + c.toNat := by
  simp only [requestWord, append_toNat]
  ring

theorem requestWord_eq_wordOf (op a b c : Byte) :
    requestWord op a b c = Machine.wordOf op.toNat a.toNat b.toNat c.toNat := by
  apply BitVec.eq_of_toNat_eq
  rw [requestWord_toNat, Machine.wordOf, BitVec.toNat_ofNat, Nat.mod_eq_of_lt]
  have := op.isLt; have := a.isLt; have := b.isLt; have := c.isLt
  omega

theorem setfontWord_eq_wordOf (b : BitVec 16) :
    setfontWord b = Machine.wordOf 0x0E (b.toNat / 256) (b.toNat % 256) 0 := by
  rw [setfontWord_eq, requestWord_eq_wordOf]
  have h := b.isLt
  congr 1
  rw [BitVec.extractLsb'_toNat, Nat.shiftRight_eq_div_pow]
  omega

/-- The fields of a word as numbers. -/
theorem fieldOp_toNat (w : Word32) : (fieldOp w).toNat = w.toNat / 2 ^ 24 := by
  have h := w.isLt
  rw [fieldOp, BitVec.extractLsb'_toNat, Nat.shiftRight_eq_div_pow]
  omega

theorem fieldA_toNat (w : Word32) : (fieldA w).toNat = w.toNat / 2 ^ 16 % 256 := by
  simp [fieldA, Nat.shiftRight_eq_div_pow]

theorem fieldB_toNat (w : Word32) : (fieldB w).toNat = w.toNat / 2 ^ 8 % 256 := by
  simp [fieldB, Nat.shiftRight_eq_div_pow]

theorem fieldC_toNat (w : Word32) : (fieldC w).toNat = w.toNat % 256 := by
  simp [fieldC]

/-- Masking a word of four fields masks each field. -/
theorem requestWord_and (op a b c mo ma mb mc : Byte) :
    requestWord op a b c &&& requestWord mo ma mb mc =
      requestWord (op &&& mo) (a &&& ma) (b &&& mb) (c &&& mc) := by
  have h : (op ++ a ++ b ++ c : BitVec (8 + 8 + 8 + 8)) &&& (mo ++ ma ++ mb ++ mc) =
      (op &&& mo) ++ (a &&& ma) ++ (b &&& mb) ++ (c &&& mc) := by
    simp only [BitVec.and_append]
  exact h

end Sys2Proof
end

