-- ==== Sys2Proof/Laws/Memory.lean ====
section
/-! SUPPORT. The font memory: what a read answers, that the memory the host supplies is in canonical form
and reads back as it was given (20_memory.md R50 to R53). -/

namespace Sys2Proof.Machine

theorem Memory.read_of_lt {m : Memory} {a : Nat} (h : a < m.size) :
    m.read a = some (Memory.lookup m.cells a) := if_pos h

theorem Memory.read_of_le {m : Memory} {a : Nat} (h : m.size ≤ a) : m.read a = none :=
  if_neg (by omega)

theorem Memory.exists_read {m : Memory} {a : Nat} (h : a < m.size) : ∃ b, m.read a = some b :=
  ⟨_, Memory.read_of_lt h⟩

/-- A read answers a byte exactly at an address that exists (R52). -/
theorem Memory.read_isSome_iff {m : Memory} {a : Nat} : (m.read a).isSome = true ↔ a < m.size := by
  unfold Memory.read
  split <;> simp_all

/-- What `readBytes` answers: the bytes at the addresses, in order. -/
theorem Memory.readBytes_spec {m : Memory} :
    ∀ {n a : Nat} {g : List Byte}, m.readBytes a n = some g →
      g.length = n ∧ ∀ j, j < n → m.read (a + j) = g[j]?
  | 0, a, g, h => by
    simp only [Memory.readBytes, Option.some.injEq] at h
    subst h
    simp
  | n + 1, a, g, h => by
    simp only [Memory.readBytes] at h
    split at h
    · rename_i b rest hb hrest
      have ih := Memory.readBytes_spec hrest
      cases h
      refine ⟨by simp [ih.1], fun j hj => ?_⟩
      cases j with
      | zero => simpa using hb
      | succ j =>
        have := ih.2 j (by omega)
        simpa [Nat.add_assoc, Nat.add_comm 1 j] using this
    · cases h

/-- `readBytes` answers where every address exists. -/
theorem Memory.exists_readBytes {m : Memory} :
    ∀ {n a : Nat}, n = 0 ∨ a + n ≤ m.size → ∃ g, m.readBytes a n = some g
  | 0, _, _ => ⟨[], rfl⟩
  | n + 1, a, h => by
    obtain ⟨b, hb⟩ := Memory.exists_read (m := m) (a := a) (by omega)
    obtain ⟨g, hg⟩ := Memory.exists_readBytes (m := m) (n := n) (a := a + 1) (by omega)
    exact ⟨b :: g, by simp [Memory.readBytes, hb, hg]⟩

theorem Memory.cellsWf_mono {size : Nat} :
    ∀ {cells : List Host.Cell} {low low' : Nat}, low' ≤ low →
      Memory.cellsWf size low cells = true → Memory.cellsWf size low' cells = true
  | [], _, _, _, _ => rfl
  | (a, b) :: rest, low, low', hle, h => by
    simp only [Memory.cellsWf, Bool.and_eq_true, decide_eq_true_eq] at h ⊢
    exact ⟨⟨⟨by omega, h.1.1.2⟩, h.1.2⟩, h.2⟩

theorem Memory.cellsOf_wf (size : Nat) :
    ∀ (bytes : List Byte) (a : Nat), a + bytes.length ≤ size →
      Memory.cellsWf size a (Memory.cellsOf a bytes) = true
  | [], _, _ => rfl
  | b :: rest, a, h => by
    have ih := Memory.cellsOf_wf size rest (a + 1) (by simp at h; omega)
    simp only [Memory.cellsOf]
    split
    · exact Memory.cellsWf_mono (by omega) ih
    · simp at h
      simp [Memory.cellsWf, *]
      omega

/-- The font memory the host supplies has the canonical form. -/
theorem Memory.ofBytes_wf (bytes : List Byte) : (Memory.ofBytes bytes).wf = true :=
  Memory.cellsOf_wf _ bytes 0 (by simp [Memory.ofBytes])

theorem Memory.lookup_cellsOf_of_lt :
    ∀ (bytes : List Byte) {a k : Nat}, k < a →
      Memory.lookup (Memory.cellsOf a bytes) k = Memory.unlisted
  | [], _, _, _ => rfl
  | b :: rest, a, k, h => by
    have ih := Memory.lookup_cellsOf_of_lt rest (a := a + 1) (k := k) (by omega)
    simp only [Memory.cellsOf]
    split
    · exact ih
    · simp only [Memory.lookup]
      rw [if_neg (by omega)]
      exact ih

theorem Memory.lookup_cellsOf :
    ∀ (bytes : List Byte) (a : Nat) {j : Nat} (h : j < bytes.length),
      Memory.lookup (Memory.cellsOf a bytes) (a + j) = bytes[j]
  | b :: rest, a, 0, _ => by
    simp only [Memory.cellsOf]
    split
    · rename_i hb
      rw [Memory.lookup_cellsOf_of_lt rest (by omega)]
      simp [hb]
    · simp [Memory.lookup]
  | b :: rest, a, j + 1, h => by
    have ih := Memory.lookup_cellsOf rest (a + 1) (j := j) (by simpa using h)
    have e : a + (j + 1) = a + 1 + j := by omega
    simp only [Memory.cellsOf, e]
    split
    · simpa using ih
    · simp only [Memory.lookup]
      rw [if_neg (by omega)]
      simpa using ih

/-- The font memory the host supplies reads back as the byte sequence it was made from (R50, R52). -/
theorem Memory.read_ofBytes (bytes : List Byte) (a : Nat) :
    (Memory.ofBytes bytes).read a = bytes[a]? := by
  by_cases h : a < bytes.length
  · have := Memory.lookup_cellsOf bytes 0 h
    simp only [Nat.zero_add] at this
    simp [Memory.read, Memory.ofBytes, h, this]
  · simp [Memory.read, Memory.ofBytes, h]

end Sys2Proof.Machine
end

