-- ==== Sys2Proof/Laws/PerInstr.lean ====
section
/-! SUPPORT. Families of lemmas with one lemma per instruction. `EncodesInRow`: the encoding of a
well-formed instruction carries the match bits of its row of spec/opcode_table.json under the row's mask
(30_encoding.md R74, R84). -/

namespace Sys2Proof.Laws.EncodesInRow

/-- The match and mask columns of an instruction's row in spec/opcode_table.json. -/
def row : Instr → Word32 × Word32
  | .sendcmd _ _ => (0x01000000, 0xFF0000FF)
  | .setcur _ _ => (0x02000000, 0xFF0000FF)
  | .contrast _ => (0x03000000, 0xFF00FFFF)
  | .scroll _ => (0x04000000, 0xFF00FFFF)
  | .rotate _ => (0x05000000, 0xFF00FFFF)
  | .invert _ => (0x06000000, 0xFF00FFFF)
  | .allon _ => (0x07000000, 0xFF00FFFF)
  | .dispen _ => (0x08000000, 0xFF00FFFF)
  | .sysrst => (0x09000000, 0xFFFFFFFF)
  | .hwrst => (0x0A000000, 0xFFFFFFFF)
  | .init => (0x0B000000, 0xFFFFFFFF)
  | .pwrdn => (0x0C000000, 0xFFFFFFFF)
  | .clear => (0x0D000000, 0xFFFFFFFF)
  | .setfont _ => (0x0E000000, 0xFF0000FF)
  | .setscale _ => (0x0F000000, 0xFF00FFFF)
  | .setaa _ => (0x10000000, 0xFF00FFFF)
  | .putc _ => (0x11000000, 0xFF00FFFF)
  | .putcat _ _ _ => (0x12000000, 0xFF000000)
  | .wireColl _ => (0x00, 0xF0)
  | .wireColh _ => (0x10, 0xF0)
  | .wirePage _ => (0xB0, 0xF8)
  | .wireScroll _ => (0x40, 0xC0)
  | .wireMap _ => (0xC0, 0xF9)
  | .wireVbias => (0x81, 0xFF)
  | .wireAllon _ => (0xA4, 0xFE)
  | .wireInv _ => (0xA6, 0xFE)
  | .wireDispen _ => (0xAE, 0xFE)
  | .wireSysrst => (0xE2, 0xFF)
  | .wireVbiasValue _ => (0x00, 0x00)

/-- The encoding of a well-formed instruction lies in its row. -/
def Statement (i : Instr) : Prop :=
  i.wellFormed = true → Machine.wordOfPort (encode i) &&& (row i).2 = (row i).1

/-- A request word with two operands lies in a row that fixes `OP` and `C`. -/
theorem two_operands (op a b : Byte) :
    requestWord op a b 0 &&& requestWord 0xFF 0 0 0xFF = requestWord op 0 0 0 := by
  have ho : op &&& 0xFF = op := BitVec.and_allOnes
  have ha : a &&& 0 = 0 := BitVec.and_zero
  have hb : b &&& 0 = 0 := BitVec.and_zero
  rw [requestWord_and, ho, ha, hb]
  rfl

/-- A request word with one operand lies in a row that fixes `OP`, `B` and `C`. -/
theorem one_operand (op a : Byte) :
    requestWord op a 0 0 &&& requestWord 0xFF 0 0xFF 0xFF = requestWord op 0 0 0 := by
  have ho : op &&& 0xFF = op := BitVec.and_allOnes
  have ha : a &&& 0 = 0 := BitVec.and_zero
  rw [requestWord_and, ho, ha]
  rfl

/-- A request word with three operands lies in a row that fixes `OP` alone. -/
theorem three_operands (op a b c : Byte) :
    requestWord op a b c &&& requestWord 0xFF 0 0 0 = requestWord op 0 0 0 := by
  have ho : op &&& 0xFF = op := BitVec.and_allOnes
  have ha : a &&& 0 = 0 := BitVec.and_zero
  have hb : b &&& 0 = 0 := BitVec.and_zero
  have hc : c &&& 0 = 0 := BitVec.and_zero
  rw [requestWord_and, ho, ha, hb, hc]

theorem sendcmd (reg val : Byte) : Statement (.sendcmd reg val) := fun _ => two_operands 0x01 reg val
theorem setcur (col page : Byte) : Statement (.setcur col page) := fun _ => two_operands 0x02 col page
theorem contrast (v : Byte) : Statement (.contrast v) := fun _ => one_operand 0x03 v
theorem scroll (line : Byte) : Statement (.scroll line) := fun _ => one_operand 0x04 line
theorem rotate (v : Byte) : Statement (.rotate v) := fun _ => one_operand 0x05 v
theorem invert (f : Byte) : Statement (.invert f) := fun _ => one_operand 0x06 f
theorem allon (f : Byte) : Statement (.allon f) := fun _ => one_operand 0x07 f
theorem dispen (f : Byte) : Statement (.dispen f) := fun _ => one_operand 0x08 f
theorem sysrst : Statement .sysrst := fun _ => rfl
theorem hwrst : Statement .hwrst := fun _ => rfl
theorem init : Statement .init := fun _ => rfl
theorem pwrdn : Statement .pwrdn := fun _ => rfl
theorem clear : Statement .clear := fun _ => rfl
theorem setfont (fbase : BitVec 16) : Statement (.setfont fbase) := fun _ => by
  show setfontWord fbase &&& _ = _
  rw [setfontWord_eq]
  exact two_operands 0x0E _ _
theorem setscale (sc : Byte) : Statement (.setscale sc) := fun _ => one_operand 0x0F sc
theorem setaa (f : Byte) : Statement (.setaa f) := fun _ => one_operand 0x10 f
theorem putc (code : Byte) : Statement (.putc code) := fun _ => one_operand 0x11 code
theorem putcat (code col row : Byte) : Statement (.putcat code col row) :=
  fun _ => three_operands 0x12 code col row
theorem wireColl (v : Byte) : Statement (.wireColl v) := by unfold Statement; revert v; decide
theorem wireColh (v : Byte) : Statement (.wireColh v) := by unfold Statement; revert v; decide
theorem wirePage (v : Byte) : Statement (.wirePage v) := by unfold Statement; revert v; decide
theorem wireScroll (v : Byte) : Statement (.wireScroll v) := by unfold Statement; revert v; decide
theorem wireMap (v : Byte) : Statement (.wireMap v) := by unfold Statement; revert v; decide
theorem wireVbias : Statement .wireVbias := fun _ => rfl
theorem wireAllon (v : Byte) : Statement (.wireAllon v) := by unfold Statement; revert v; decide
theorem wireInv (v : Byte) : Statement (.wireInv v) := by unfold Statement; revert v; decide
theorem wireDispen (v : Byte) : Statement (.wireDispen v) := by unfold Statement; revert v; decide
theorem wireSysrst : Statement .wireSysrst := fun _ => rfl
theorem wireVbiasValue (v : Byte) : Statement (.wireVbiasValue v) := fun _ => BitVec.and_zero

end Sys2Proof.Laws.EncodesInRow
end

