-- ==== Sys2Proof/Laws/State.lean ====
section
/-! SUPPORT. What each named update of the state does to each field, one lemma per field per update. -/

namespace Sys2Proof.Machine

variable (s : State)

/-! ### `State.setCursor` -/

@[simp] theorem State.setCursor_col (c : BitVec 16) (r : BitVec 8) : (s.setCursor c r).col = c := rfl
@[simp] theorem State.setCursor_row (c : BitVec 16) (r : BitVec 8) : (s.setCursor c r).row = r := rfl
@[simp] theorem State.setCursor_scale (c : BitVec 16) (r : BitVec 8) : (s.setCursor c r).scale = s.scale := rfl
@[simp] theorem State.setCursor_aa (c : BitVec 16) (r : BitVec 8) : (s.setCursor c r).aa = s.aa := rfl
@[simp] theorem State.setCursor_fontValid (c : BitVec 16) (r : BitVec 8) : (s.setCursor c r).fontValid = s.fontValid := rfl
@[simp] theorem State.setCursor_fontBase (c : BitVec 16) (r : BitVec 8) : (s.setCursor c r).fontBase = s.fontBase := rfl
@[simp] theorem State.setCursor_fw (c : BitVec 16) (r : BitVec 8) : (s.setCursor c r).fw = s.fw := rfl
@[simp] theorem State.setCursor_ffirst (c : BitVec 16) (r : BitVec 8) : (s.setCursor c r).ffirst = s.ffirst := rfl
@[simp] theorem State.setCursor_flast (c : BitVec 16) (r : BitVec 8) : (s.setCursor c r).flast = s.flast := rfl
@[simp] theorem State.setCursor_contrast (c : BitVec 16) (r : BitVec 8) : (s.setCursor c r).contrast = s.contrast := rfl
@[simp] theorem State.setCursor_orient (c : BitVec 16) (r : BitVec 8) : (s.setCursor c r).orient = s.orient := rfl
@[simp] theorem State.setCursor_inverse (c : BitVec 16) (r : BitVec 8) : (s.setCursor c r).inverse = s.inverse := rfl
@[simp] theorem State.setCursor_csLevel (c : BitVec 16) (r : BitVec 8) : (s.setCursor c r).csLevel = s.csLevel := rfl
@[simp] theorem State.setCursor_cdLevel (c : BitVec 16) (r : BitVec 8) : (s.setCursor c r).cdLevel = s.cdLevel := rfl
@[simp] theorem State.setCursor_fault (c : BitVec 16) (r : BitVec 8) : (s.setCursor c r).fault = s.fault := rfl
@[simp] theorem State.setCursor_faultReq (c : BitVec 16) (r : BitVec 8) : (s.setCursor c r).faultReq = s.faultReq := rfl
@[simp] theorem State.setCursor_fm (c : BitVec 16) (r : BitVec 8) : (s.setCursor c r).fm = s.fm := rfl
@[simp] theorem State.setCursor_params (c : BitVec 16) (r : BitVec 8) : (s.setCursor c r).params = s.params := rfl
@[simp] theorem State.setCursor_inputs (c : BitVec 16) (r : BitVec 8) : (s.setCursor c r).inputs = s.inputs := rfl
@[simp] theorem State.setCursor_trace (c : BitVec 16) (r : BitVec 8) : (s.setCursor c r).trace = s.trace := rfl
@[simp] theorem State.setCursor_statuses (c : BitVec 16) (r : BitVec 8) : (s.setCursor c r).statuses = s.statuses := rfl

/-! ### `State.setContrast` -/

@[simp] theorem State.setContrast_col (v : Byte) : (s.setContrast v).col = s.col := rfl
@[simp] theorem State.setContrast_row (v : Byte) : (s.setContrast v).row = s.row := rfl
@[simp] theorem State.setContrast_scale (v : Byte) : (s.setContrast v).scale = s.scale := rfl
@[simp] theorem State.setContrast_aa (v : Byte) : (s.setContrast v).aa = s.aa := rfl
@[simp] theorem State.setContrast_fontValid (v : Byte) : (s.setContrast v).fontValid = s.fontValid := rfl
@[simp] theorem State.setContrast_fontBase (v : Byte) : (s.setContrast v).fontBase = s.fontBase := rfl
@[simp] theorem State.setContrast_fw (v : Byte) : (s.setContrast v).fw = s.fw := rfl
@[simp] theorem State.setContrast_ffirst (v : Byte) : (s.setContrast v).ffirst = s.ffirst := rfl
@[simp] theorem State.setContrast_flast (v : Byte) : (s.setContrast v).flast = s.flast := rfl
@[simp] theorem State.setContrast_contrast (v : Byte) : (s.setContrast v).contrast = v := rfl
@[simp] theorem State.setContrast_orient (v : Byte) : (s.setContrast v).orient = s.orient := rfl
@[simp] theorem State.setContrast_inverse (v : Byte) : (s.setContrast v).inverse = s.inverse := rfl
@[simp] theorem State.setContrast_csLevel (v : Byte) : (s.setContrast v).csLevel = s.csLevel := rfl
@[simp] theorem State.setContrast_cdLevel (v : Byte) : (s.setContrast v).cdLevel = s.cdLevel := rfl
@[simp] theorem State.setContrast_fault (v : Byte) : (s.setContrast v).fault = s.fault := rfl
@[simp] theorem State.setContrast_faultReq (v : Byte) : (s.setContrast v).faultReq = s.faultReq := rfl
@[simp] theorem State.setContrast_fm (v : Byte) : (s.setContrast v).fm = s.fm := rfl
@[simp] theorem State.setContrast_params (v : Byte) : (s.setContrast v).params = s.params := rfl
@[simp] theorem State.setContrast_inputs (v : Byte) : (s.setContrast v).inputs = s.inputs := rfl
@[simp] theorem State.setContrast_trace (v : Byte) : (s.setContrast v).trace = s.trace := rfl
@[simp] theorem State.setContrast_statuses (v : Byte) : (s.setContrast v).statuses = s.statuses := rfl

/-! ### `State.setOrient` -/

@[simp] theorem State.setOrient_col (v : Byte) : (s.setOrient v).col = s.col := rfl
@[simp] theorem State.setOrient_row (v : Byte) : (s.setOrient v).row = s.row := rfl
@[simp] theorem State.setOrient_scale (v : Byte) : (s.setOrient v).scale = s.scale := rfl
@[simp] theorem State.setOrient_aa (v : Byte) : (s.setOrient v).aa = s.aa := rfl
@[simp] theorem State.setOrient_fontValid (v : Byte) : (s.setOrient v).fontValid = s.fontValid := rfl
@[simp] theorem State.setOrient_fontBase (v : Byte) : (s.setOrient v).fontBase = s.fontBase := rfl
@[simp] theorem State.setOrient_fw (v : Byte) : (s.setOrient v).fw = s.fw := rfl
@[simp] theorem State.setOrient_ffirst (v : Byte) : (s.setOrient v).ffirst = s.ffirst := rfl
@[simp] theorem State.setOrient_flast (v : Byte) : (s.setOrient v).flast = s.flast := rfl
@[simp] theorem State.setOrient_contrast (v : Byte) : (s.setOrient v).contrast = s.contrast := rfl
@[simp] theorem State.setOrient_orient (v : Byte) : (s.setOrient v).orient = v := rfl
@[simp] theorem State.setOrient_inverse (v : Byte) : (s.setOrient v).inverse = s.inverse := rfl
@[simp] theorem State.setOrient_csLevel (v : Byte) : (s.setOrient v).csLevel = s.csLevel := rfl
@[simp] theorem State.setOrient_cdLevel (v : Byte) : (s.setOrient v).cdLevel = s.cdLevel := rfl
@[simp] theorem State.setOrient_fault (v : Byte) : (s.setOrient v).fault = s.fault := rfl
@[simp] theorem State.setOrient_faultReq (v : Byte) : (s.setOrient v).faultReq = s.faultReq := rfl
@[simp] theorem State.setOrient_fm (v : Byte) : (s.setOrient v).fm = s.fm := rfl
@[simp] theorem State.setOrient_params (v : Byte) : (s.setOrient v).params = s.params := rfl
@[simp] theorem State.setOrient_inputs (v : Byte) : (s.setOrient v).inputs = s.inputs := rfl
@[simp] theorem State.setOrient_trace (v : Byte) : (s.setOrient v).trace = s.trace := rfl
@[simp] theorem State.setOrient_statuses (v : Byte) : (s.setOrient v).statuses = s.statuses := rfl

/-! ### `State.setInverse` -/

@[simp] theorem State.setInverse_col (f : BitVec 1) : (s.setInverse f).col = s.col := rfl
@[simp] theorem State.setInverse_row (f : BitVec 1) : (s.setInverse f).row = s.row := rfl
@[simp] theorem State.setInverse_scale (f : BitVec 1) : (s.setInverse f).scale = s.scale := rfl
@[simp] theorem State.setInverse_aa (f : BitVec 1) : (s.setInverse f).aa = s.aa := rfl
@[simp] theorem State.setInverse_fontValid (f : BitVec 1) : (s.setInverse f).fontValid = s.fontValid := rfl
@[simp] theorem State.setInverse_fontBase (f : BitVec 1) : (s.setInverse f).fontBase = s.fontBase := rfl
@[simp] theorem State.setInverse_fw (f : BitVec 1) : (s.setInverse f).fw = s.fw := rfl
@[simp] theorem State.setInverse_ffirst (f : BitVec 1) : (s.setInverse f).ffirst = s.ffirst := rfl
@[simp] theorem State.setInverse_flast (f : BitVec 1) : (s.setInverse f).flast = s.flast := rfl
@[simp] theorem State.setInverse_contrast (f : BitVec 1) : (s.setInverse f).contrast = s.contrast := rfl
@[simp] theorem State.setInverse_orient (f : BitVec 1) : (s.setInverse f).orient = s.orient := rfl
@[simp] theorem State.setInverse_inverse (f : BitVec 1) : (s.setInverse f).inverse = f := rfl
@[simp] theorem State.setInverse_csLevel (f : BitVec 1) : (s.setInverse f).csLevel = s.csLevel := rfl
@[simp] theorem State.setInverse_cdLevel (f : BitVec 1) : (s.setInverse f).cdLevel = s.cdLevel := rfl
@[simp] theorem State.setInverse_fault (f : BitVec 1) : (s.setInverse f).fault = s.fault := rfl
@[simp] theorem State.setInverse_faultReq (f : BitVec 1) : (s.setInverse f).faultReq = s.faultReq := rfl
@[simp] theorem State.setInverse_fm (f : BitVec 1) : (s.setInverse f).fm = s.fm := rfl
@[simp] theorem State.setInverse_params (f : BitVec 1) : (s.setInverse f).params = s.params := rfl
@[simp] theorem State.setInverse_inputs (f : BitVec 1) : (s.setInverse f).inputs = s.inputs := rfl
@[simp] theorem State.setInverse_trace (f : BitVec 1) : (s.setInverse f).trace = s.trace := rfl
@[simp] theorem State.setInverse_statuses (f : BitVec 1) : (s.setInverse f).statuses = s.statuses := rfl

/-! ### `State.setScale` -/

@[simp] theorem State.setScale_col (sc : BitVec 2) : (s.setScale sc).col = s.col := rfl
@[simp] theorem State.setScale_row (sc : BitVec 2) : (s.setScale sc).row = s.row := rfl
@[simp] theorem State.setScale_scale (sc : BitVec 2) : (s.setScale sc).scale = sc := rfl
@[simp] theorem State.setScale_aa (sc : BitVec 2) : (s.setScale sc).aa = s.aa := rfl
@[simp] theorem State.setScale_fontValid (sc : BitVec 2) : (s.setScale sc).fontValid = s.fontValid := rfl
@[simp] theorem State.setScale_fontBase (sc : BitVec 2) : (s.setScale sc).fontBase = s.fontBase := rfl
@[simp] theorem State.setScale_fw (sc : BitVec 2) : (s.setScale sc).fw = s.fw := rfl
@[simp] theorem State.setScale_ffirst (sc : BitVec 2) : (s.setScale sc).ffirst = s.ffirst := rfl
@[simp] theorem State.setScale_flast (sc : BitVec 2) : (s.setScale sc).flast = s.flast := rfl
@[simp] theorem State.setScale_contrast (sc : BitVec 2) : (s.setScale sc).contrast = s.contrast := rfl
@[simp] theorem State.setScale_orient (sc : BitVec 2) : (s.setScale sc).orient = s.orient := rfl
@[simp] theorem State.setScale_inverse (sc : BitVec 2) : (s.setScale sc).inverse = s.inverse := rfl
@[simp] theorem State.setScale_csLevel (sc : BitVec 2) : (s.setScale sc).csLevel = s.csLevel := rfl
@[simp] theorem State.setScale_cdLevel (sc : BitVec 2) : (s.setScale sc).cdLevel = s.cdLevel := rfl
@[simp] theorem State.setScale_fault (sc : BitVec 2) : (s.setScale sc).fault = s.fault := rfl
@[simp] theorem State.setScale_faultReq (sc : BitVec 2) : (s.setScale sc).faultReq = s.faultReq := rfl
@[simp] theorem State.setScale_fm (sc : BitVec 2) : (s.setScale sc).fm = s.fm := rfl
@[simp] theorem State.setScale_params (sc : BitVec 2) : (s.setScale sc).params = s.params := rfl
@[simp] theorem State.setScale_inputs (sc : BitVec 2) : (s.setScale sc).inputs = s.inputs := rfl
@[simp] theorem State.setScale_trace (sc : BitVec 2) : (s.setScale sc).trace = s.trace := rfl
@[simp] theorem State.setScale_statuses (sc : BitVec 2) : (s.setScale sc).statuses = s.statuses := rfl

/-! ### `State.setAa` -/

@[simp] theorem State.setAa_col (f : BitVec 1) : (s.setAa f).col = s.col := rfl
@[simp] theorem State.setAa_row (f : BitVec 1) : (s.setAa f).row = s.row := rfl
@[simp] theorem State.setAa_scale (f : BitVec 1) : (s.setAa f).scale = s.scale := rfl
@[simp] theorem State.setAa_aa (f : BitVec 1) : (s.setAa f).aa = f := rfl
@[simp] theorem State.setAa_fontValid (f : BitVec 1) : (s.setAa f).fontValid = s.fontValid := rfl
@[simp] theorem State.setAa_fontBase (f : BitVec 1) : (s.setAa f).fontBase = s.fontBase := rfl
@[simp] theorem State.setAa_fw (f : BitVec 1) : (s.setAa f).fw = s.fw := rfl
@[simp] theorem State.setAa_ffirst (f : BitVec 1) : (s.setAa f).ffirst = s.ffirst := rfl
@[simp] theorem State.setAa_flast (f : BitVec 1) : (s.setAa f).flast = s.flast := rfl
@[simp] theorem State.setAa_contrast (f : BitVec 1) : (s.setAa f).contrast = s.contrast := rfl
@[simp] theorem State.setAa_orient (f : BitVec 1) : (s.setAa f).orient = s.orient := rfl
@[simp] theorem State.setAa_inverse (f : BitVec 1) : (s.setAa f).inverse = s.inverse := rfl
@[simp] theorem State.setAa_csLevel (f : BitVec 1) : (s.setAa f).csLevel = s.csLevel := rfl
@[simp] theorem State.setAa_cdLevel (f : BitVec 1) : (s.setAa f).cdLevel = s.cdLevel := rfl
@[simp] theorem State.setAa_fault (f : BitVec 1) : (s.setAa f).fault = s.fault := rfl
@[simp] theorem State.setAa_faultReq (f : BitVec 1) : (s.setAa f).faultReq = s.faultReq := rfl
@[simp] theorem State.setAa_fm (f : BitVec 1) : (s.setAa f).fm = s.fm := rfl
@[simp] theorem State.setAa_params (f : BitVec 1) : (s.setAa f).params = s.params := rfl
@[simp] theorem State.setAa_inputs (f : BitVec 1) : (s.setAa f).inputs = s.inputs := rfl
@[simp] theorem State.setAa_trace (f : BitVec 1) : (s.setAa f).trace = s.trace := rfl
@[simp] theorem State.setAa_statuses (f : BitVec 1) : (s.setAa f).statuses = s.statuses := rfl

/-! ### `State.setFont` -/

@[simp] theorem State.setFont_col (b : BitVec 16) (w f l : Byte) : (s.setFont b w f l).col = s.col := rfl
@[simp] theorem State.setFont_row (b : BitVec 16) (w f l : Byte) : (s.setFont b w f l).row = s.row := rfl
@[simp] theorem State.setFont_scale (b : BitVec 16) (w f l : Byte) : (s.setFont b w f l).scale = s.scale := rfl
@[simp] theorem State.setFont_aa (b : BitVec 16) (w f l : Byte) : (s.setFont b w f l).aa = s.aa := rfl
@[simp] theorem State.setFont_fontValid (b : BitVec 16) (w f l : Byte) : (s.setFont b w f l).fontValid = 1 := rfl
@[simp] theorem State.setFont_fontBase (b : BitVec 16) (w f l : Byte) : (s.setFont b w f l).fontBase = b := rfl
@[simp] theorem State.setFont_fw (b : BitVec 16) (w f l : Byte) : (s.setFont b w f l).fw = w := rfl
@[simp] theorem State.setFont_ffirst (b : BitVec 16) (w f l : Byte) : (s.setFont b w f l).ffirst = f := rfl
@[simp] theorem State.setFont_flast (b : BitVec 16) (w f l : Byte) : (s.setFont b w f l).flast = l := rfl
@[simp] theorem State.setFont_contrast (b : BitVec 16) (w f l : Byte) : (s.setFont b w f l).contrast = s.contrast := rfl
@[simp] theorem State.setFont_orient (b : BitVec 16) (w f l : Byte) : (s.setFont b w f l).orient = s.orient := rfl
@[simp] theorem State.setFont_inverse (b : BitVec 16) (w f l : Byte) : (s.setFont b w f l).inverse = s.inverse := rfl
@[simp] theorem State.setFont_csLevel (b : BitVec 16) (w f l : Byte) : (s.setFont b w f l).csLevel = s.csLevel := rfl
@[simp] theorem State.setFont_cdLevel (b : BitVec 16) (w f l : Byte) : (s.setFont b w f l).cdLevel = s.cdLevel := rfl
@[simp] theorem State.setFont_fault (b : BitVec 16) (w f l : Byte) : (s.setFont b w f l).fault = s.fault := rfl
@[simp] theorem State.setFont_faultReq (b : BitVec 16) (w f l : Byte) : (s.setFont b w f l).faultReq = s.faultReq := rfl
@[simp] theorem State.setFont_fm (b : BitVec 16) (w f l : Byte) : (s.setFont b w f l).fm = s.fm := rfl
@[simp] theorem State.setFont_params (b : BitVec 16) (w f l : Byte) : (s.setFont b w f l).params = s.params := rfl
@[simp] theorem State.setFont_inputs (b : BitVec 16) (w f l : Byte) : (s.setFont b w f l).inputs = s.inputs := rfl
@[simp] theorem State.setFont_trace (b : BitVec 16) (w f l : Byte) : (s.setFont b w f l).trace = s.trace := rfl
@[simp] theorem State.setFont_statuses (b : BitVec 16) (w f l : Byte) : (s.setFont b w f l).statuses = s.statuses := rfl

/-! ### `State.setInputs` -/

@[simp] theorem State.setInputs_col (rest : List HostInput) : (s.setInputs rest).col = s.col := rfl
@[simp] theorem State.setInputs_row (rest : List HostInput) : (s.setInputs rest).row = s.row := rfl
@[simp] theorem State.setInputs_scale (rest : List HostInput) : (s.setInputs rest).scale = s.scale := rfl
@[simp] theorem State.setInputs_aa (rest : List HostInput) : (s.setInputs rest).aa = s.aa := rfl
@[simp] theorem State.setInputs_fontValid (rest : List HostInput) : (s.setInputs rest).fontValid = s.fontValid := rfl
@[simp] theorem State.setInputs_fontBase (rest : List HostInput) : (s.setInputs rest).fontBase = s.fontBase := rfl
@[simp] theorem State.setInputs_fw (rest : List HostInput) : (s.setInputs rest).fw = s.fw := rfl
@[simp] theorem State.setInputs_ffirst (rest : List HostInput) : (s.setInputs rest).ffirst = s.ffirst := rfl
@[simp] theorem State.setInputs_flast (rest : List HostInput) : (s.setInputs rest).flast = s.flast := rfl
@[simp] theorem State.setInputs_contrast (rest : List HostInput) : (s.setInputs rest).contrast = s.contrast := rfl
@[simp] theorem State.setInputs_orient (rest : List HostInput) : (s.setInputs rest).orient = s.orient := rfl
@[simp] theorem State.setInputs_inverse (rest : List HostInput) : (s.setInputs rest).inverse = s.inverse := rfl
@[simp] theorem State.setInputs_csLevel (rest : List HostInput) : (s.setInputs rest).csLevel = s.csLevel := rfl
@[simp] theorem State.setInputs_cdLevel (rest : List HostInput) : (s.setInputs rest).cdLevel = s.cdLevel := rfl
@[simp] theorem State.setInputs_fault (rest : List HostInput) : (s.setInputs rest).fault = s.fault := rfl
@[simp] theorem State.setInputs_faultReq (rest : List HostInput) : (s.setInputs rest).faultReq = s.faultReq := rfl
@[simp] theorem State.setInputs_fm (rest : List HostInput) : (s.setInputs rest).fm = s.fm := rfl
@[simp] theorem State.setInputs_params (rest : List HostInput) : (s.setInputs rest).params = s.params := rfl
@[simp] theorem State.setInputs_inputs (rest : List HostInput) : (s.setInputs rest).inputs = rest := rfl
@[simp] theorem State.setInputs_trace (rest : List HostInput) : (s.setInputs rest).trace = s.trace := rfl
@[simp] theorem State.setInputs_statuses (rest : List HostInput) : (s.setInputs rest).statuses = s.statuses := rfl

/-! ### `State.emit` -/

@[simp] theorem State.emit_col (events : List BusEvent) : (s.emit events).col = s.col := rfl
@[simp] theorem State.emit_row (events : List BusEvent) : (s.emit events).row = s.row := rfl
@[simp] theorem State.emit_scale (events : List BusEvent) : (s.emit events).scale = s.scale := rfl
@[simp] theorem State.emit_aa (events : List BusEvent) : (s.emit events).aa = s.aa := rfl
@[simp] theorem State.emit_fontValid (events : List BusEvent) : (s.emit events).fontValid = s.fontValid := rfl
@[simp] theorem State.emit_fontBase (events : List BusEvent) : (s.emit events).fontBase = s.fontBase := rfl
@[simp] theorem State.emit_fw (events : List BusEvent) : (s.emit events).fw = s.fw := rfl
@[simp] theorem State.emit_ffirst (events : List BusEvent) : (s.emit events).ffirst = s.ffirst := rfl
@[simp] theorem State.emit_flast (events : List BusEvent) : (s.emit events).flast = s.flast := rfl
@[simp] theorem State.emit_contrast (events : List BusEvent) : (s.emit events).contrast = s.contrast := rfl
@[simp] theorem State.emit_orient (events : List BusEvent) : (s.emit events).orient = s.orient := rfl
@[simp] theorem State.emit_inverse (events : List BusEvent) : (s.emit events).inverse = s.inverse := rfl
@[simp] theorem State.emit_csLevel (events : List BusEvent) : (s.emit events).csLevel = driveCs s.csLevel events := rfl
@[simp] theorem State.emit_cdLevel (events : List BusEvent) : (s.emit events).cdLevel = driveCd s.cdLevel events := rfl
@[simp] theorem State.emit_fault (events : List BusEvent) : (s.emit events).fault = s.fault := rfl
@[simp] theorem State.emit_faultReq (events : List BusEvent) : (s.emit events).faultReq = s.faultReq := rfl
@[simp] theorem State.emit_fm (events : List BusEvent) : (s.emit events).fm = s.fm := rfl
@[simp] theorem State.emit_params (events : List BusEvent) : (s.emit events).params = s.params := rfl
@[simp] theorem State.emit_inputs (events : List BusEvent) : (s.emit events).inputs = s.inputs := rfl
@[simp] theorem State.emit_trace (events : List BusEvent) : (s.emit events).trace = s.trace ++ events := rfl
@[simp] theorem State.emit_statuses (events : List BusEvent) : (s.emit events).statuses = s.statuses := rfl

/-! ### `State.report` -/

@[simp] theorem State.report_col (st : Status) : (s.report st).col = s.col := rfl
@[simp] theorem State.report_row (st : Status) : (s.report st).row = s.row := rfl
@[simp] theorem State.report_scale (st : Status) : (s.report st).scale = s.scale := rfl
@[simp] theorem State.report_aa (st : Status) : (s.report st).aa = s.aa := rfl
@[simp] theorem State.report_fontValid (st : Status) : (s.report st).fontValid = s.fontValid := rfl
@[simp] theorem State.report_fontBase (st : Status) : (s.report st).fontBase = s.fontBase := rfl
@[simp] theorem State.report_fw (st : Status) : (s.report st).fw = s.fw := rfl
@[simp] theorem State.report_ffirst (st : Status) : (s.report st).ffirst = s.ffirst := rfl
@[simp] theorem State.report_flast (st : Status) : (s.report st).flast = s.flast := rfl
@[simp] theorem State.report_contrast (st : Status) : (s.report st).contrast = s.contrast := rfl
@[simp] theorem State.report_orient (st : Status) : (s.report st).orient = s.orient := rfl
@[simp] theorem State.report_inverse (st : Status) : (s.report st).inverse = s.inverse := rfl
@[simp] theorem State.report_csLevel (st : Status) : (s.report st).csLevel = s.csLevel := rfl
@[simp] theorem State.report_cdLevel (st : Status) : (s.report st).cdLevel = s.cdLevel := rfl
@[simp] theorem State.report_fault (st : Status) : (s.report st).fault = s.fault := rfl
@[simp] theorem State.report_faultReq (st : Status) : (s.report st).faultReq = s.faultReq := rfl
@[simp] theorem State.report_fm (st : Status) : (s.report st).fm = s.fm := rfl
@[simp] theorem State.report_params (st : Status) : (s.report st).params = s.params := rfl
@[simp] theorem State.report_inputs (st : Status) : (s.report st).inputs = s.inputs := rfl
@[simp] theorem State.report_trace (st : Status) : (s.report st).trace = s.trace := rfl
@[simp] theorem State.report_statuses (st : Status) : (s.report st).statuses = s.statuses ++ [st] := rfl

/-! ### `State.reject` -/

@[simp] theorem State.reject_col : s.reject.col = s.col := rfl
@[simp] theorem State.reject_row : s.reject.row = s.row := rfl
@[simp] theorem State.reject_scale : s.reject.scale = s.scale := rfl
@[simp] theorem State.reject_aa : s.reject.aa = s.aa := rfl
@[simp] theorem State.reject_fontValid : s.reject.fontValid = s.fontValid := rfl
@[simp] theorem State.reject_fontBase : s.reject.fontBase = s.fontBase := rfl
@[simp] theorem State.reject_fw : s.reject.fw = s.fw := rfl
@[simp] theorem State.reject_ffirst : s.reject.ffirst = s.ffirst := rfl
@[simp] theorem State.reject_flast : s.reject.flast = s.flast := rfl
@[simp] theorem State.reject_contrast : s.reject.contrast = s.contrast := rfl
@[simp] theorem State.reject_orient : s.reject.orient = s.orient := rfl
@[simp] theorem State.reject_inverse : s.reject.inverse = s.inverse := rfl
@[simp] theorem State.reject_csLevel : s.reject.csLevel = s.csLevel := rfl
@[simp] theorem State.reject_cdLevel : s.reject.cdLevel = s.cdLevel := rfl
@[simp] theorem State.reject_fault : s.reject.fault = s.fault := rfl
@[simp] theorem State.reject_faultReq : s.reject.faultReq = s.faultReq := rfl
@[simp] theorem State.reject_fm : s.reject.fm = s.fm := rfl
@[simp] theorem State.reject_params : s.reject.params = s.params := rfl
@[simp] theorem State.reject_inputs : s.reject.inputs = s.inputs := rfl
@[simp] theorem State.reject_trace : s.reject.trace = s.trace := rfl
@[simp] theorem State.reject_statuses : s.reject.statuses = s.statuses ++ [.rejected] := rfl

/-! ### `State.takeFault` -/

@[simp] theorem State.takeFault_col (code : FaultCode) (w : Word32) : (s.takeFault code w).col = s.col := rfl
@[simp] theorem State.takeFault_row (code : FaultCode) (w : Word32) : (s.takeFault code w).row = s.row := rfl
@[simp] theorem State.takeFault_scale (code : FaultCode) (w : Word32) : (s.takeFault code w).scale = s.scale := rfl
@[simp] theorem State.takeFault_aa (code : FaultCode) (w : Word32) : (s.takeFault code w).aa = s.aa := rfl
@[simp] theorem State.takeFault_fontValid (code : FaultCode) (w : Word32) : (s.takeFault code w).fontValid = s.fontValid := rfl
@[simp] theorem State.takeFault_fontBase (code : FaultCode) (w : Word32) : (s.takeFault code w).fontBase = s.fontBase := rfl
@[simp] theorem State.takeFault_fw (code : FaultCode) (w : Word32) : (s.takeFault code w).fw = s.fw := rfl
@[simp] theorem State.takeFault_ffirst (code : FaultCode) (w : Word32) : (s.takeFault code w).ffirst = s.ffirst := rfl
@[simp] theorem State.takeFault_flast (code : FaultCode) (w : Word32) : (s.takeFault code w).flast = s.flast := rfl
@[simp] theorem State.takeFault_contrast (code : FaultCode) (w : Word32) : (s.takeFault code w).contrast = s.contrast := rfl
@[simp] theorem State.takeFault_orient (code : FaultCode) (w : Word32) : (s.takeFault code w).orient = s.orient := rfl
@[simp] theorem State.takeFault_inverse (code : FaultCode) (w : Word32) : (s.takeFault code w).inverse = s.inverse := rfl
@[simp] theorem State.takeFault_csLevel (code : FaultCode) (w : Word32) : (s.takeFault code w).csLevel = s.csLevel := rfl
@[simp] theorem State.takeFault_cdLevel (code : FaultCode) (w : Word32) : (s.takeFault code w).cdLevel = s.cdLevel := rfl
@[simp] theorem State.takeFault_fault (code : FaultCode) (w : Word32) : (s.takeFault code w).fault = code.number := rfl
@[simp] theorem State.takeFault_faultReq (code : FaultCode) (w : Word32) : (s.takeFault code w).faultReq = w := rfl
@[simp] theorem State.takeFault_fm (code : FaultCode) (w : Word32) : (s.takeFault code w).fm = s.fm := rfl
@[simp] theorem State.takeFault_params (code : FaultCode) (w : Word32) : (s.takeFault code w).params = s.params := rfl
@[simp] theorem State.takeFault_inputs (code : FaultCode) (w : Word32) : (s.takeFault code w).inputs = s.inputs := rfl
@[simp] theorem State.takeFault_trace (code : FaultCode) (w : Word32) : (s.takeFault code w).trace = s.trace := rfl
@[simp] theorem State.takeFault_statuses (code : FaultCode) (w : Word32) : (s.takeFault code w).statuses = s.statuses ++ [.fault code] := rfl

/-! ### `State.blockReset` -/

@[simp] theorem State.blockReset_col : s.blockReset.col = 0 := rfl
@[simp] theorem State.blockReset_row : s.blockReset.row = 0 := rfl
@[simp] theorem State.blockReset_scale : s.blockReset.scale = 1 := rfl
@[simp] theorem State.blockReset_aa : s.blockReset.aa = 0 := rfl
@[simp] theorem State.blockReset_fontValid : s.blockReset.fontValid = 0 := rfl
@[simp] theorem State.blockReset_fontBase : s.blockReset.fontBase = 0 := rfl
@[simp] theorem State.blockReset_fw : s.blockReset.fw = 0 := rfl
@[simp] theorem State.blockReset_ffirst : s.blockReset.ffirst = 0 := rfl
@[simp] theorem State.blockReset_flast : s.blockReset.flast = 0 := rfl
@[simp] theorem State.blockReset_contrast : s.blockReset.contrast = s.params.vbiasDefault := rfl
@[simp] theorem State.blockReset_orient : s.blockReset.orient = 0 := rfl
@[simp] theorem State.blockReset_inverse : s.blockReset.inverse = 0 := rfl
@[simp] theorem State.blockReset_csLevel : s.blockReset.csLevel = .deasserted := rfl
@[simp] theorem State.blockReset_cdLevel : s.blockReset.cdLevel = .data := rfl
@[simp] theorem State.blockReset_fault : s.blockReset.fault = 0 := rfl
@[simp] theorem State.blockReset_faultReq : s.blockReset.faultReq = 0 := rfl
@[simp] theorem State.blockReset_fm : s.blockReset.fm = s.fm := rfl
@[simp] theorem State.blockReset_params : s.blockReset.params = s.params := rfl
@[simp] theorem State.blockReset_inputs : s.blockReset.inputs = s.inputs := rfl
@[simp] theorem State.blockReset_trace : s.blockReset.trace = s.trace := rfl
@[simp] theorem State.blockReset_statuses : s.blockReset.statuses = s.statuses := rfl

end Sys2Proof.Machine
end

