-- ==== Sys2Proof/Laws/Requests.lean ====
section
/-! SUPPORT. What executing an instruction can do, said once: `execute` and `sendWire` by cases, a
specification of every request's rule, and from them the inversion of `exec`. -/

namespace Sys2Proof.Machine

/-! ### The shared execution -/

/-- What `execute` answers, by cases (40_framer.md R104). -/
theorem execute_next {w : Word32} {s t : State} {r : RuleResult} (h : execute w s r = .next t) :
    (s.fault ≠ 0 ∧ t = s.reject) ∨
    (s.fault = 0 ∧ ∃ s' events, r = .done s' events ∧ t = (s'.emit events).report .done) ∨
    (s.fault = 0 ∧ ∃ code, r = .raise code ∧ t = s.takeFault code w) := by
  unfold execute at h
  split at h
  · rename_i hf
    cases h
    exact .inl ⟨hf, rfl⟩
  · rename_i hf
    have hf : s.fault = 0 := by simpa using hf
    cases r with
    | done s' events =>
      cases h
      exact .inr (.inl ⟨hf, _, _, rfl, rfl⟩)
    | raise code =>
      cases h
      exact .inr (.inr ⟨hf, _, rfl, rfl⟩)
    | unmapped => cases h

theorem execute_done {s : State} (w : Word32) (s' : State) (events : List BusEvent) (hf : s.fault = 0) :
    execute w s (.done s' events) = .next ((s'.emit events).report .done) := by
  simp [execute, hf]

theorem execute_raise {s : State} (w : Word32) (code : FaultCode) (hf : s.fault = 0) :
    execute w s (.raise code) = .next (s.takeFault code w) := by
  simp [execute, hf]

theorem execute_faulted {s : State} (w : Word32) (r : RuleResult) (hf : s.fault ≠ 0) :
    execute w s r = .next s.reject := if_pos hf

/-- What `sendWire` answers: always a next state. -/
theorem sendWire_eq (b : Byte) (s : State) :
    sendWire b s = execute 0 s (.done s (txn (cmdFrame b))) := rfl

theorem faultNumber_ne_zero (code : FaultCode) : code.number ≠ 0 := by cases code <;> decide

theorem faultNumber_le (code : FaultCode) : code.number.toNat ≤ 9 := by cases code <;> decide

theorem faultNumber_injective {a b : FaultCode} (h : a.number = b.number) : a = b := by
  cases a <;> cases b <;> first | rfl | exact absurd h (by decide)

/-! ### Events of a request -/

/-- Events that keep the bus discipline and, from the idle levels, leave the idle levels. -/
structure FramedEvents (events : List BusEvent) : Prop where
  run : BusPhase.idle.run events = some .idle
  cs  : driveCs .deasserted events = .deasserted
  cd  : driveCd .data events = .data

theorem framedEvents_nil : FramedEvents [] := ⟨rfl, rfl, rfl⟩

theorem framedEvents_pulse (p : Params) : FramedEvents [pulse p] := ⟨rfl, rfl, rfl⟩

theorem FramedBody.framedEvents {body : List BusEvent} (h : FramedBody body) : FramedEvents (txn body) where
  run := h.run_txn
  cs := by
    by_cases hne : body = []
    · simp [hne]
    · exact h.driveCs_txn hne _
  cd := h.driveCd_txn

theorem FramedEvents.append {xs ys : List BusEvent} (hx : FramedEvents xs) (hy : FramedEvents ys) :
    FramedEvents (xs ++ ys) where
  run := by simp [BusPhase.run_append, hx.run, hy.run]
  cs := by simp [hx.cs, hy.cs]
  cd := by simp [hx.cd, hy.cd]

/-! ### What a rule leaves alone -/

/-- `s'` differs from `s` in no fault register, parameter, level or record: what every rule leaves alone
(its own writes are the cursor, the configuration and the font registers). -/
structure SameRun (s s' : State) : Prop where
  fault    : s'.fault = s.fault
  faultReq : s'.faultReq = s.faultReq
  fm       : s'.fm = s.fm
  params   : s'.params = s.params
  inputs   : s'.inputs = s.inputs
  trace    : s'.trace = s.trace
  statuses : s'.statuses = s.statuses
  csLevel  : s'.csLevel = s.csLevel
  cdLevel  : s'.cdLevel = s.cdLevel

theorem SameRun.refl (s : State) : SameRun s s := ⟨rfl, rfl, rfl, rfl, rfl, rfl, rfl, rfl, rfl⟩

theorem sameRun_setCursor (s : State) (c : BitVec 16) (r : BitVec 8) : SameRun s (s.setCursor c r) :=
  ⟨rfl, rfl, rfl, rfl, rfl, rfl, rfl, rfl, rfl⟩

theorem SameRun.trans {a b c : State} (h : SameRun a b) (k : SameRun b c) : SameRun a c :=
  ⟨k.fault.trans h.fault, k.faultReq.trans h.faultReq, k.fm.trans h.fm, k.params.trans h.params,
    k.inputs.trans h.inputs, k.trace.trans h.trace, k.statuses.trans h.statuses,
    k.csLevel.trans h.csLevel, k.cdLevel.trans h.cdLevel⟩

/-- What every rule's result meets: it leaves the run alone and its events are framed, or it raises a fault;
it never reads a byte that does not exist. -/
def RuleSpec (s : State) : RuleResult → Prop
  | .done s' events => SameRun s s' ∧ FramedEvents events
  | .raise _ => True
  | .unmapped => False

theorem RuleSpec.mono {a b : State} (h : SameRun a b) : ∀ {r : RuleResult}, RuleSpec b r → RuleSpec a r
  | .done _ _, k => ⟨h.trans k.1, k.2⟩
  | .raise _, _ => trivial
  | .unmapped, k => k

theorem ruleSendcmd_spec (reg val : Byte) (s : State) : RuleSpec s (ruleSendcmd reg val s) := by
  unfold ruleSendcmd
  split
  · trivial
  · exact ⟨.refl s, (framedBody_cmdFrame _).framedEvents⟩

theorem ruleSetcur_spec (col page : Byte) (s : State) : RuleSpec s (ruleSetcur col page s) := by
  unfold ruleSetcur
  split
  · exact ⟨sameRun_setCursor .., (framedBody_cursorSet ..).framedEvents⟩
  · trivial

theorem ruleContrast_spec (v : Byte) (s : State) : RuleSpec s (ruleContrast v s) :=
  ⟨⟨rfl, rfl, rfl, rfl, rfl, rfl, rfl, rfl, rfl⟩,
    ((framedBody_cmdFrame _).append (framedBody_cmdFrame _)).framedEvents⟩

theorem ruleScroll_spec (line : Byte) (s : State) : RuleSpec s (ruleScroll line s) := by
  unfold ruleScroll
  split
  · exact ⟨.refl s, (framedBody_cmdFrame _).framedEvents⟩
  · trivial

theorem ruleRotate_spec (v : Byte) (s : State) : RuleSpec s (ruleRotate v s) := by
  unfold ruleRotate
  split
  · exact ⟨⟨rfl, rfl, rfl, rfl, rfl, rfl, rfl, rfl, rfl⟩, (framedBody_cmdFrame _).framedEvents⟩
  · trivial

theorem ruleInvert_spec (f : Byte) (s : State) : RuleSpec s (ruleInvert f s) := by
  unfold ruleInvert
  split
  · exact ⟨⟨rfl, rfl, rfl, rfl, rfl, rfl, rfl, rfl, rfl⟩, (framedBody_cmdFrame _).framedEvents⟩
  · trivial

theorem ruleAllon_spec (f : Byte) (s : State) : RuleSpec s (ruleAllon f s) := by
  unfold ruleAllon
  split
  · exact ⟨.refl s, (framedBody_cmdFrame _).framedEvents⟩
  · trivial

theorem ruleDispen_spec (f : Byte) (s : State) : RuleSpec s (ruleDispen f s) := by
  unfold ruleDispen
  split
  · exact ⟨.refl s, (framedBody_cmdFrame _).framedEvents⟩
  · trivial

theorem ruleSysrst_spec (s : State) : RuleSpec s (ruleSysrst s) :=
  ⟨.refl s, (framedBody_cmdFrame _).framedEvents⟩

theorem ruleHwrst_spec (s : State) : RuleSpec s (ruleHwrst s) := ⟨.refl s, framedEvents_pulse _⟩

theorem ruleInit_spec (s : State) : RuleSpec s (ruleInit s) :=
  ⟨.refl s, (framedEvents_pulse _).append (framedBody_cmdFrames _).framedEvents⟩

theorem rulePwrdn_spec (s : State) : RuleSpec s (rulePwrdn s) := by
  refine ⟨.refl s, FramedEvents.append ?_ (framedBody_cmdFrames _).framedEvents⟩
  split
  · exact framedEvents_pulse _
  · exact framedEvents_nil

theorem ruleClear_spec (s : State) : RuleSpec s (ruleClear s) :=
  ⟨sameRun_setCursor .., (framedBody_clearBody _).framedEvents⟩

theorem ruleSetfont_spec (b : BitVec 16) (s : State) : RuleSpec s (ruleSetfont b s) := by
  unfold ruleSetfont
  split
  · trivial
  · rename_i h
    obtain ⟨w, hw⟩ := Memory.exists_read (m := s.fm) (a := b.toNat) (by omega)
    obtain ⟨f, hf⟩ := Memory.exists_read (m := s.fm) (a := b.toNat + 2) (by omega)
    obtain ⟨l, hl⟩ := Memory.exists_read (m := s.fm) (a := b.toNat + 3) (by omega)
    simp only [hw, hf, hl]
    exact ⟨⟨rfl, rfl, rfl, rfl, rfl, rfl, rfl, rfl, rfl⟩, framedEvents_nil⟩

theorem ruleSetscale_spec (sc : Byte) (s : State) : RuleSpec s (ruleSetscale sc s) := by
  unfold ruleSetscale
  split
  · exact ⟨⟨rfl, rfl, rfl, rfl, rfl, rfl, rfl, rfl, rfl⟩, framedEvents_nil⟩
  · exact ⟨.refl s, framedEvents_nil⟩

theorem ruleSetaa_spec (f : Byte) (s : State) : RuleSpec s (ruleSetaa f s) := by
  unfold ruleSetaa
  split
  · exact ⟨⟨rfl, rfl, rfl, rfl, rfl, rfl, rfl, rfl, rfl⟩, framedEvents_nil⟩
  · trivial

/-! ### Text -/

theorem framedBody_reposition (rc : RegCode) (c p : Nat) : FramedBody (reposition rc c p) := by
  unfold reposition
  split
  · exact framedBody_cursorSet ..
  · exact .nil

theorem framedBody_render1x (rc : RegCode) (g : List Byte) (c p : Nat) : FramedBody (render1x rc g c p) :=
  ((framedBody_cursorSet ..).append (framedBody_dataBytes _)).append (framedBody_dataBytes _)

theorem framedBody_render2x (rc : RegCode) (aa : BitVec 1) (g : List Byte) (c p : Nat) :
    FramedBody (render2x rc aa g c p) := by
  refine ((framedBody_cursorSet ..).append (framedBody_dataBytes _)).append ?_
  unfold bottomHalf
  split
  · exact (framedBody_cursorSet ..).append (framedBody_dataBytes _)
  · exact .nil

/-- What the glyph renderer gives for the columns it reads (R165). -/
theorem render_some {c : Byte} {s : State} {events : List BusEvent} (h : render c s = some events) :
    ∃ g, s.fm.readBytes (glyphAddress s c) s.fw.toNat = some g ∧
      events = if s.scale = 1 then render1x s.params.regcode g s.col.toNat s.row.toNat
        else render2x s.params.regcode s.aa g s.col.toNat s.row.toNat := by
  unfold render at h
  split at h
  · cases h
  · rename_i g hg
    refine ⟨g, hg, ?_⟩
    split at h <;> simp_all

theorem framedBody_render {c : Byte} {s : State} {events : List BusEvent} (h : render c s = some events) :
    FramedBody events := by
  obtain ⟨g, -, rfl⟩ := render_some h
  split
  · exact framedBody_render1x ..
  · exact framedBody_render2x ..

/-- Where the glyph checks pass, every glyph byte exists (R163). -/
theorem exists_glyph {c : Byte} {s : State} (h : glyphFault c s = none) :
    ∃ g, s.fm.readBytes (glyphAddress s c) s.fw.toNat = some g := by
  unfold glyphFault at h
  split at h
  · cases h
  · split at h
    · cases h
    · rename_i hw
      exact Memory.exists_readBytes (by omega)

/-- Where the glyph checks pass, the renderer answers, wherever the cursor is. -/
theorem exists_render {c : Byte} {s : State} (h : glyphFault c s = none) (x : BitVec 16) (y : BitVec 8) :
    ∃ events, render c (s.setCursor x y) = some events := by
  obtain ⟨g, hg⟩ := exists_glyph h
  have hg' : (s.setCursor x y).fm.readBytes (glyphAddress (s.setCursor x y) c)
      (s.setCursor x y).fw.toNat = some g := hg
  unfold render
  simp only [hg']
  split <;> exact ⟨_, rfl⟩

/-- The wrap moves the cursor and sends framed events (R161, R162). -/
theorem wrap_spec (s : State) :
    ∃ x y, (wrap s).1 = s.setCursor x y ∧ FramedBody (wrap s).2 := by
  unfold wrap
  split
  · split
    · exact ⟨_, _, rfl, (framedBody_clearBody _).append (framedBody_reposition ..)⟩
    · exact ⟨_, _, rfl, framedBody_reposition ..⟩
  · exact ⟨s.col, s.row, rfl, .nil⟩

theorem putCr_spec (s : State) : RuleSpec s (putCr s) := ⟨sameRun_setCursor .., framedEvents_nil⟩

theorem putLf_spec (s : State) : RuleSpec s (putLf s) := by
  unfold putLf
  split
  · exact ⟨sameRun_setCursor .., ((framedBody_clearBody _).append (framedBody_reposition ..)).framedEvents⟩
  · exact ⟨sameRun_setCursor .., (framedBody_reposition ..).framedEvents⟩

theorem putTab_spec (s : State) : RuleSpec s (putTab s) := by
  unfold putTab
  dsimp only
  split
  · trivial
  · exact ⟨sameRun_setCursor .., (framedBody_reposition ..).framedEvents⟩

theorem putBs_spec (s : State) : RuleSpec s (putBs s) :=
  ⟨sameRun_setCursor .., (framedBody_reposition ..).framedEvents⟩

theorem putPrintable_spec (c : Byte) (s : State) : RuleSpec s (putPrintable c s) := by
  unfold putPrintable
  split
  · trivial
  · rename_i hg
    obtain ⟨x, y, hw, hb⟩ := wrap_spec s
    obtain ⟨events, he⟩ := exists_render hg x y
    have he' : render c (wrap s).1 = some events := by rw [hw, he]
    simp only [he']
    exact ⟨by rw [hw]; exact (sameRun_setCursor ..).trans (sameRun_setCursor ..),
      (hb.append (framedBody_render he)).framedEvents⟩

theorem putChar_spec (c : Byte) (s : State) : RuleSpec s (putChar c s) := by
  unfold putChar
  split
  · exact putCr_spec s
  · exact putLf_spec s
  · exact putTab_spec s
  · exact putBs_spec s
  · exact putPrintable_spec c s
  · exact ⟨.refl s, framedEvents_nil⟩

theorem rulePutc_spec (code : Byte) (s : State) : RuleSpec s (rulePutc code s) := by
  unfold rulePutc
  split
  · trivial
  · exact putChar_spec code s

theorem rulePutcat_spec (code col row : Byte) (s : State) : RuleSpec s (rulePutcat code col row s) := by
  unfold rulePutcat
  split
  · split
    · trivial
    · exact (putChar_spec code _).mono (sameRun_setCursor ..)
  · trivial

/-! ### Every instruction -/

/-- A wire command is the shared execution of one framed transaction, which raises no fault. -/
theorem sendWire_spec (p : PortWord) (b : Byte) (s : State) :
    ∃ w r, sendWire b s = execute w s r ∧ RuleSpec s r ∧
      (p = .req32 w ∨ ∀ code, r ≠ .raise code) :=
  ⟨0, _, sendWire_eq b s, ⟨.refl s, (framedBody_cmdFrame _).framedEvents⟩, .inr fun _ h => by cases h⟩

/-- Every instruction is the shared execution of a rule that meets its specification; a request's rule is
executed for the request's own word, and a wire command's raises no fault. -/
theorem exec_eq_execute (i : Instr) (s : State) :
    ∃ w r, exec i s = execute w s r ∧ RuleSpec s r ∧
      (encode i = .req32 w ∨ ∀ code, r ≠ .raise code) := by
  cases i with
  | sendcmd reg val => exact ⟨_, _, rfl, ruleSendcmd_spec reg val s, .inl rfl⟩
  | setcur col page => exact ⟨_, _, rfl, ruleSetcur_spec col page s, .inl rfl⟩
  | contrast v => exact ⟨_, _, rfl, ruleContrast_spec v s, .inl rfl⟩
  | scroll line => exact ⟨_, _, rfl, ruleScroll_spec line s, .inl rfl⟩
  | rotate v => exact ⟨_, _, rfl, ruleRotate_spec v s, .inl rfl⟩
  | invert f => exact ⟨_, _, rfl, ruleInvert_spec f s, .inl rfl⟩
  | allon f => exact ⟨_, _, rfl, ruleAllon_spec f s, .inl rfl⟩
  | dispen f => exact ⟨_, _, rfl, ruleDispen_spec f s, .inl rfl⟩
  | sysrst => exact ⟨_, _, rfl, ruleSysrst_spec s, .inl rfl⟩
  | hwrst => exact ⟨_, _, rfl, ruleHwrst_spec s, .inl rfl⟩
  | init => exact ⟨_, _, rfl, ruleInit_spec s, .inl rfl⟩
  | pwrdn => exact ⟨_, _, rfl, rulePwrdn_spec s, .inl rfl⟩
  | clear => exact ⟨_, _, rfl, ruleClear_spec s, .inl rfl⟩
  | setfont b => exact ⟨_, _, rfl, ruleSetfont_spec b s, .inl rfl⟩
  | setscale sc => exact ⟨_, _, rfl, ruleSetscale_spec sc s, .inl rfl⟩
  | setaa f => exact ⟨_, _, rfl, ruleSetaa_spec f s, .inl rfl⟩
  | putc code => exact ⟨_, _, rfl, rulePutc_spec code s, .inl rfl⟩
  | putcat code col row => exact ⟨_, _, rfl, rulePutcat_spec code col row s, .inl rfl⟩
  | wireColl v => exact sendWire_spec _ _ s
  | wireColh v => exact sendWire_spec _ _ s
  | wirePage v => exact sendWire_spec _ _ s
  | wireScroll v => exact sendWire_spec _ _ s
  | wireMap v => exact sendWire_spec _ _ s
  | wireVbias => exact sendWire_spec _ _ s
  | wireAllon v => exact sendWire_spec _ _ s
  | wireInv v => exact sendWire_spec _ _ s
  | wireDispen v => exact sendWire_spec _ _ s
  | wireSysrst => exact sendWire_spec _ _ s
  | wireVbiasValue v => exact sendWire_spec _ _ s

/-- The inversion of `exec`: what any instruction can do. -/
theorem exec_next {i : Instr} {s t : State} (h : exec i s = .next t) :
    (s.fault ≠ 0 ∧ t = s.reject) ∨
    (s.fault = 0 ∧ ∃ s' events, SameRun s s' ∧ FramedEvents events ∧
      t = (s'.emit events).report .done) ∨
    (s.fault = 0 ∧ ∃ code w, encode i = .req32 w ∧ t = s.takeFault code w) := by
  obtain ⟨w, r, e, hr, hw⟩ := exec_eq_execute i s
  rw [e] at h
  obtain h | ⟨hf, s', events, rfl, rfl⟩ | ⟨hf, code, rfl, rfl⟩ := execute_next h
  · exact .inl h
  · exact .inr (.inl ⟨hf, s', events, hr.1, hr.2, rfl⟩)
  · refine .inr (.inr ⟨hf, code, w, ?_, rfl⟩)
    exact hw.resolve_right (fun k => k code rfl)

/-- The inversion of serving a word: a rejection, the decoded instruction, or a decode fault. -/
theorem serveWord_next {p : PortWord} {s t : State} (h : serveWord p s = .next t) :
    (s.fault ≠ 0 ∧ t = s.reject) ∨
    (s.fault = 0 ∧ ∃ i, decode s.params.regcode s.params.mapMask p = .ok i ∧ exec i s = .next t) ∨
    (s.fault = 0 ∧ ∃ e code, decode s.params.regcode s.params.mapMask p = .error e ∧
      faultOfDecode e = some code ∧ t = s.takeFault code (wordOfPort p)) := by
  unfold serveWord at h
  split at h
  · rename_i hf
    cases h
    exact .inl ⟨hf, rfl⟩
  · rename_i hf
    have hf : s.fault = 0 := by simpa using hf
    split at h
    · rename_i i hi
      exact .inr (.inl ⟨hf, i, hi, h⟩)
    · rename_i e he
      split at h
      · rename_i code hc
        cases h
        exact .inr (.inr ⟨hf, e, code, he, hc, rfl⟩)
      · cases h

/-- The inversion of `step`: waiting, block reset, or a word served. -/
theorem step_next {s t : State} (h : step s = .next t) :
    (s.inputs = [] ∧ t = s) ∨
    (∃ rest, s.inputs = .blockReset :: rest ∧ t = (s.setInputs rest).blockReset) ∨
    (∃ p rest, s.inputs = .word p :: rest ∧ serveWord p (s.setInputs rest) = .next t) := by
  unfold step serveNext at h
  split at h
  · rename_i hi
    cases h
    exact .inl ⟨hi, rfl⟩
  · rename_i k rest hi
    cases k with
    | word p => exact .inr (.inr ⟨p, rest, hi, h⟩)
    | blockReset =>
      cases h
      exact .inr (.inl ⟨rest, hi, rfl⟩)

end Sys2Proof.Machine
end

