-- ==== Sys2Proof/Laws/Results.lean ====
section
/-! SUPPORT. What an executed rule leaves, in the terms the claims use (`afterSending`, `afterPulse`,
`afterSilence`, `afterFault`). -/

namespace Sys2Proof.Machine

/-- A request that raises a fault, seen from outside (60_exceptions.md R231). -/
theorem takeFault_eq_afterFault (s : State) (code : FaultCode) (w : Word32) :
    s.takeFault code w = s.afterFault code.number code w := rfl

/-- A request that sends nothing. -/
theorem emit_nil_report (s : State) : (s.emit []).report .done = s.afterSilence := by
  simp [State.emit, State.report, State.afterSilence]

/-- A reset pulse alone moves no level. -/
theorem emit_pulse_report (s : State) (p : Params) :
    (s.emit [pulse p]).report .done = s.afterPulse [.resetPulse p.resetLowUs p.resetSettleMs] := rfl

/-- One transaction whose body begins with a command frame, sent after events that move no level. -/
theorem emit_txn_report {before body : List BusEvent} (s : State)
    (hcs : ∀ l, driveCs l before = l) (hcd : ∀ l, driveCd l before = l)
    (h : ∃ b rest, body = cmdFrame b ++ rest ∧ FramedBody rest) :
    (s.emit (before ++ txn body)).report .done = s.afterSending (before ++ sentTransaction body) := by
  obtain ⟨b, rest, rfl, hr⟩ := h
  have hne : cmdFrame b ++ rest ≠ [] := by simp [cmdFrame]
  have h1 := (FramedBody.frame b hr).driveCs_txn hne s.csLevel
  have h2 := hr.driveCd_txn_frame b s.cdLevel
  rw [txn_of_ne_nil hne] at h1 h2 ⊢
  simp only [State.emit, State.report, State.afterSending, driveCs_append, driveCd_append, hcs, hcd, h1, h2]

/-- A request that sends one transaction whose body begins with a command frame. -/
theorem emit_txn_report' {body : List BusEvent} (s : State)
    (h : ∃ b rest, body = cmdFrame b ++ rest ∧ FramedBody rest) :
    (s.emit (txn body)).report .done = s.afterSending (sentTransaction body) :=
  emit_txn_report (before := []) s (fun _ => rfl) (fun _ => rfl) h

/-- A pulse and then one transaction whose body begins with a command frame. -/
theorem emit_pulse_txn_report {body : List BusEvent} (s : State) (p : Params)
    (h : ∃ b rest, body = cmdFrame b ++ rest ∧ FramedBody rest) :
    (s.emit (pulse p :: txn body)).report .done =
      s.afterSending (.resetPulse p.resetLowUs p.resetSettleMs :: sentTransaction body) :=
  emit_txn_report (before := [pulse p]) s (fun _ => rfl) (fun _ => rfl) h

theorem begins_cmdFrame (b : Byte) : ∃ c rest, cmdFrame b = cmdFrame c ++ rest ∧ FramedBody rest :=
  ⟨b, [], rfl, .nil⟩

theorem begins_append {xs ys : List BusEvent} (h : ∃ b rest, xs = cmdFrame b ++ rest ∧ FramedBody rest)
    (hy : FramedBody ys) : ∃ b rest, xs ++ ys = cmdFrame b ++ rest ∧ FramedBody rest := by
  obtain ⟨b, rest, rfl, hr⟩ := h
  exact ⟨b, rest ++ ys, List.append_assoc .., hr.append hy⟩

theorem begins_cmdFrames {bs : List Byte} (h : bs ≠ []) :
    ∃ b rest, cmdFrames bs = cmdFrame b ++ rest ∧ FramedBody rest := by
  cases bs with
  | nil => exact absurd rfl h
  | cons b bs => exact ⟨b, cmdFrames bs, rfl, framedBody_cmdFrames bs⟩

/-- A framed command byte on its own, seen from outside. -/
theorem sendWire_eq_afterSending (b : Byte) (s : State) (hf : s.fault = 0) :
    sendWire b s = .next (s.afterSending (sentTransaction (sentFrame b))) := by
  rw [sendWire_eq, execute_done _ _ _ hf, emit_txn_report' s (begins_cmdFrame b)]
  rfl

end Sys2Proof.Machine
end

