-- ==== Sys2Proof/Laws/Stretch.lean ====
section
/-! SUPPORT. The stretch buffer (42_stretch_aa.md R203 to R205): what OR-ing into a buffer does to its bytes
and to its 16-bit columns, and what the pass over one pair does. -/

namespace Sys2Proof.Machine

theorem lowByte_or (u w : Column) : lowByte (u ||| w) = lowByte u ||| lowByte w := by
  simp only [lowByte, BitVec.extractLsb'_or]

theorem highByte_or (u w : Column) : highByte (u ||| w) = highByte u ||| highByte w := by
  simp only [highByte, BitVec.extractLsb'_or]

/-- A column is its two bytes. -/
theorem high_append_low (u : Column) : (highByte u ++ lowByte u : Column) = u := by
  rw [highByte, lowByte, BitVec.extractLsb'_append_extractLsb'_eq_extractLsb' (by rfl)]
  exact BitVec.extractLsb'_eq_self

@[simp] theorem length_orByte (v : StretchBuffer) (i : Nat) (b : Byte) : (orByte v i b).length = v.length :=
  List.length_set

@[simp] theorem length_orColumn (v : StretchBuffer) (x : Nat) (u : Column) :
    (orColumn v x u).length = v.length := by
  simp [orColumn]

@[simp] theorem length_smoothPair (snap live : StretchBuffer) (x : Nat) :
    (smoothPair snap live x).length = live.length := by
  simp [smoothPair]

theorem length_foldl_smoothPair (snap : StretchBuffer) (xs : List Nat) (live : StretchBuffer) :
    (xs.foldl (smoothPair snap) live).length = live.length := by
  induction xs generalizing live with
  | nil => rfl
  | cons x xs ih => rw [List.foldl_cons, ih, length_smoothPair]

theorem bufferByte_orByte {v : StretchBuffer} {i : Nat} (h : i < v.length) (b : Byte) (j : Nat) :
    bufferByte (orByte v i b) j = if j = i then bufferByte v j ||| b else bufferByte v j := by
  unfold bufferByte orByte
  by_cases hj : j = i
  · subst hj
    simp [bufferByte, h]
  · rw [if_neg hj]
    simp [List.getElem?_set_ne (Ne.symm hj)]

/-- OR-ing a value into one raw column changes that column alone. -/
theorem bufferColumn_orColumn {v : StretchBuffer} {x : Nat} (hv : v.length = 24) (hx : x < 12) (u : Column)
    {y : Nat} (hy : y < 12) :
    bufferColumn (orColumn v x u) y = if y = x then bufferColumn v y ||| u else bufferColumn v y := by
  unfold bufferColumn orColumn
  have h1 : x < v.length := by omega
  have h2 : x + 12 < (orByte v x (lowByte u)).length := by rw [length_orByte]; omega
  simp only [bufferByte_orByte h2, bufferByte_orByte h1]
  by_cases h : y = x
  · subst h
    simp only [if_true, show ¬ y + 12 = y by omega, show ¬ y = y + 12 by omega, if_false]
    conv_rhs => rw [← high_append_low u]
    exact (BitVec.or_append).symm
  · simp only [show ¬ y + 12 = x by omega, show ¬ y = x + 12 by omega, show ¬ y + 12 = x + 12 by omega, h,
      if_false]

/-- The pass over one pair of raw columns: each of the two gains its additions, judged on the snapshot, and
no other column changes (R205). -/
theorem bufferColumn_smoothPair {snap live : StretchBuffer} {x : Nat} (hv : live.length = 24) (hx : x < 11)
    {y : Nat} (hy : y < 12) :
    bufferColumn (smoothPair snap live x) y =
      if y = x then bufferColumn live y ||| (pairAdds (bufferColumn snap x) (bufferColumn snap (x + 1))).1
      else if y = x + 1 then
        bufferColumn live y ||| (pairAdds (bufferColumn snap x) (bufferColumn snap (x + 1))).2
      else bufferColumn live y := by
  unfold smoothPair
  rw [bufferColumn_orColumn (by simp [hv]) (by omega) _ hy, bufferColumn_orColumn hv (by omega) _ hy]
  by_cases h1 : y = x
  · simp [h1]
  · by_cases h2 : y = x + 1 <;> simp [h1, h2]

end Sys2Proof.Machine
end

