-- ==== Sys2Proof/Laws/Text.lean ====
section
/-! SUPPORT. The text operations (41_text.md R153 to R168): what classification, the next line, the
reposition, the wrap, the glyph checks and the renderer give, each said once. -/

namespace Sys2Proof.Machine

theorem classify_printable {s : State} {c : Byte} (h : printableCode s c) : classify s c = .printable := by
  obtain ⟨h1, h2, h3, h4, h5⟩ := h
  rw [classify, if_neg h1, if_neg h2, if_neg h3, if_neg h4, if_pos h5]

theorem classify_unrecognised {s : State} {c : Byte} (h1 : c ≠ 0x0D) (h2 : c ≠ 0x0A) (h3 : c ≠ 0x09)
    (h4 : c ≠ 0x08) (h5 : c.toNat < s.ffirst.toNat ∨ s.flast.toNat < c.toNat) :
    classify s c = .unrecognised := by
  rw [classify, if_neg h1, if_neg h2, if_neg h3, if_neg h4, if_neg (by omega)]

/-- A code of the printable class is one the claims call printable (R154). -/
theorem printable_of_classify {s : State} {c : Byte} (h : classify s c = .printable) : printableCode s c := by
  unfold classify at h
  split at h
  · cases h
  · split at h
    · cases h
    · split at h
      · cases h
      · split at h
        · cases h
        · split at h
          · rename_i h1 h2 h3 h4 h5
            exact ⟨h1, h2, h3, h4, h5⟩
          · cases h

theorem nextLine_down {r sc : Nat} (h : r + sc < 8) : nextLine r sc = some (r + sc) := by
  rw [nextLine, if_neg (by simp only [Config.height]; omega)]

theorem nextLine_clear {r sc : Nat} (h : 8 ≤ r + sc) : nextLine r sc = none := by
  rw [nextLine, if_pos (by simp only [Config.height]; omega)]

theorem begins_sentCursor (rc : RegCode) {c : Nat} (p : Nat) (h : c < 256) :
    ∃ b rest, sentCursor rc c p = cmdFrame b ++ rest ∧ FramedBody rest := by
  rw [← cursorSet_eq_sentCursor rc p h]
  exact cursorSet_eq_cons rc c p

theorem begins_sentClear (rc : RegCode) :
    ∃ b rest, sentClear rc = cmdFrame b ++ rest ∧ FramedBody rest := by
  rw [← clearBody_eq_sentClear]
  exact clearBody_eq_cons rc

theorem framedBody_of_begins {xs : List BusEvent} (h : ∃ b rest, xs = cmdFrame b ++ rest ∧ FramedBody rest) :
    FramedBody xs := by
  obtain ⟨b, rest, rfl, hr⟩ := h
  exact .frame b hr

theorem reposition_on (rc : RegCode) {c p : Nat} (hc : c < 192) (hp : p < 8) :
    reposition rc c p = sentCursor rc c p := by
  rw [reposition, if_pos (by simp [onSurface, hc, hp]), cursorSet_eq_sentCursor rc p (by omega)]

theorem reposition_off (rc : RegCode) {c : Nat} (p : Nat) (hc : 192 ≤ c) : reposition rc c p = [] := by
  rw [reposition, if_neg (by simp only [onSurface, Config.width, Bool.and_eq_true, decide_eq_true_eq]; omega)]

/-- No wrap left of the right edge (R161). -/
theorem wrap_none {s : State} (h : s.col.toNat < 192) : wrap s = (s, []) := by
  rw [wrap, if_neg (by simp only [Config.width]; omega)]

/-- A wrap that moves down (R162). -/
theorem wrap_down {s : State} (h : 192 ≤ s.col.toNat) (hr : s.row.toNat + s.scale.toNat < 8) :
    wrap s = (s.setCursor 0 (BitVec.ofNat 8 (s.row.toNat + s.scale.toNat)),
      sentCursor s.params.regcode 0 (s.row.toNat + s.scale.toNat)) := by
  rw [wrap, if_pos (by simp only [Config.width]; omega), nextLine_down hr]
  simp only [reposition_on _ (show 0 < 192 by omega) hr]

/-- A wrap into the overflow clear (R162). -/
theorem wrap_clear {s : State} (h : 192 ≤ s.col.toNat) (hr : 8 ≤ s.row.toNat + s.scale.toNat) :
    wrap s = (s.setCursor 0 0, sentClear s.params.regcode ++ sentCursor s.params.regcode 0 0) := by
  rw [wrap, if_pos (by simp only [Config.width]; omega), nextLine_clear hr]
  simp only [reposition_on _ (show 0 < 192 by omega) (show 0 < 8 by omega), clearBody_eq_sentClear]

/-- A glyph that exists and that the scale can draw passes the checks (R163). -/
theorem glyphFault_none {s : State} {c : Byte} (hd : drawableScale s) (hg : glyphPresent s c) :
    glyphFault c s = none := by
  have hd' : ¬ (s.scale = 2 ∧ s.fw ≠ 5) := by
    rintro ⟨h1, h2⟩
    rcases hd with h | h
    · rw [h] at h1
      exact absurd h1 (by decide)
    · exact h2 h.2
  have hg' : ¬ (s.fw.toNat > 0 ∧ glyphAddress s c + s.fw.toNat - 1 ≥ s.fm.size) := by
    simp only [glyphPresent, glyphStart, glyphAddress] at *
    omega
  rw [glyphFault, if_neg hd', if_neg hg']

/-- What the checks passed, where they raise nothing (R163). -/
theorem glyphFault_eq_none {s : State} {c : Byte} (h : glyphFault c s = none) :
    ¬ (s.scale = 2 ∧ s.fw ≠ 5) ∧ glyphPresent s c := by
  unfold glyphFault at h
  split at h
  · cases h
  · rename_i h1
    split at h
    · cases h
    · rename_i h2
      refine ⟨h1, ?_⟩
      simp only [glyphPresent, glyphStart, glyphAddress] at *
      omega

theorem render1x_eq (rc : RegCode) (g : List Byte) {c : Nat} (p : Nat) (h : c < 256) :
    render1x rc g c p = sentGlyph1x rc g c p := by
  rw [render1x, sentGlyph1x, cursorSet_eq_sentCursor rc p h, List.append_assoc]
  rfl

theorem render2x_eq (rc : RegCode) (aa : BitVec 1) (g : List Byte) {c : Nat} (p : Nat) (h : c < 256) :
    render2x rc aa g c p =
      sentGlyph2x rc (if aa = 1 then smooth (buildStretch g) else buildStretch g) c p := by
  simp only [render2x, sentGlyph2x, bottomHalf, cursorSet_eq_sentCursor rc _ h]
  rfl

/-- The renderer at any cursor on the surface sends the glyph's columns (R165). -/
theorem render_setCursor {s : State} {c : Byte} {g : List Byte}
    (hg : s.fm.readBytes (glyphAddress s c) s.fw.toNat = some g) (x : BitVec 16) (y : BitVec 8)
    (hx : x.toNat < 192) : render c (s.setCursor x y) = some (sentGlyph s g x.toNat y.toNat) := by
  have hg' : (s.setCursor x y).fm.readBytes (glyphAddress (s.setCursor x y) c)
      (s.setCursor x y).fw.toNat = some g := hg
  have hx' : x.toNat < 256 := by omega
  unfold render
  rw [hg']
  by_cases h1 : s.scale = 1
  · simp only [State.setCursor_scale, State.setCursor_params, State.setCursor_col, State.setCursor_row,
      sentGlyph, if_pos h1, render1x_eq _ _ _ hx']
  · simp only [State.setCursor_scale, State.setCursor_params, State.setCursor_col, State.setCursor_row,
      State.setCursor_aa, sentGlyph, if_neg h1, render2x_eq _ _ _ _ hx']
    split <;> rfl

theorem begins_sentGlyph2x (rc : RegCode) (buf : List Byte) {c : Nat} (p : Nat) (h : c < 256) :
    ∃ b rest, sentGlyph2x rc buf c p = cmdFrame b ++ rest ∧ FramedBody rest := by
  refine begins_append (begins_append (begins_sentCursor rc p h) (framedBody_dataBytes _)) ?_
  split
  · exact (framedBody_of_begins (begins_sentCursor rc _ h)).append (framedBody_dataBytes _)
  · exact .nil

theorem begins_sentGlyph (s : State) (g : List Byte) {c : Nat} (p : Nat) (h : c < 256) :
    ∃ b rest, sentGlyph s g c p = cmdFrame b ++ rest ∧ FramedBody rest := by
  unfold sentGlyph
  split
  · exact begins_append (begins_sentCursor _ p h) (framedBody_dataBytes (0 :: g))
  · split <;> exact begins_sentGlyph2x _ _ p h

/-- A printable code whose glyph can be drawn: the wrap, the glyph at the cursor the wrap leaves, the
advance (R161). -/
theorem putPrintable_done {s : State} {c : Byte} (hd : drawableScale s) (hg : glyphPresent s c) :
    ∃ g, glyphColumns s c g ∧
      ∀ x y, (wrap s).1 = s.setCursor x y → x.toNat < 192 →
        putPrintable c s =
          .done (s.setCursor (BitVec.ofNat 16 (x.toNat + glyphAdvance s)) y)
            (txn ((wrap s).2 ++ sentGlyph s g x.toNat y.toNat)) := by
  obtain ⟨g, hr⟩ := exists_glyph (glyphFault_none hd hg)
  refine ⟨g, Memory.readBytes_spec hr, fun x y hw hx => ?_⟩
  unfold putPrintable
  rw [glyphFault_none hd hg]
  simp only [hw, render_setCursor hr x y hx]
  rfl

/-- PUTC with a font selected is its case statement (R170). -/
theorem execPutc_of_font {s : State} (c : Byte) (hv : s.fontValid = 1) :
    execPutc c s = execute (requestWord 0x11 c 0 0) s (putChar c s) := by
  rw [execPutc, rulePutc, if_neg (by rw [hv]; decide)]

end Sys2Proof.Machine
end

