-- ==== Sys2Proof/Tests/Slice0.lean ====
section
/-! SUPPORT. Tests. Expected results are the vectors of spec/95_test_vectors.md and the examples of the
cited rules, worked out there by hand; the witnesses show that the hypotheses of the statements can be met. -/

namespace Sys2Proof.Tests

open Sys2Proof Sys2Proof.Machine

/-! ### Well-formed instructions: each check refuses an operand outside its value field (R81, R84) -/

theorem test_illformed_wire_coll : (Instr.wireColl 0x10).wellFormed = false := by decide
theorem test_illformed_wire_colh : (Instr.wireColh 0x10).wellFormed = false := by decide
theorem test_illformed_wire_page : (Instr.wirePage 0x08).wellFormed = false := by decide
theorem test_illformed_wire_scroll : (Instr.wireScroll 0x40).wellFormed = false := by decide
theorem test_illformed_wire_map :
    (Instr.wireMap 0x01).wellFormed = false ∧ (Instr.wireMap 0x08).wellFormed = false := by decide
theorem test_illformed_wire_allon : (Instr.wireAllon 0x02).wellFormed = false := by decide
theorem test_illformed_wire_inv : (Instr.wireInv 0x02).wellFormed = false := by decide
theorem test_illformed_wire_dispen : (Instr.wireDispen 0x02).wellFormed = false := by decide
theorem test_wellformed_edges :
    (Instr.wireColl 0x0F).wellFormed = true ∧ (Instr.wirePage 0x07).wellFormed = true ∧
    (Instr.wireScroll 0x3F).wellFormed = true ∧ (Instr.wireMap 0x06).wellFormed = true ∧
    (Instr.wireVbiasValue 0xFF).wellFormed = true := by decide

/-! ### Decoding: words written out from R71, R73, R74 and R84 -/

theorem test_decode_register_requests :
    decodeTableWord 32 0x01B00700 = some (.sendcmd 0xB0 0x07) ∧
    decodeTableWord 32 0x02BF0700 = some (.setcur 191 7) ∧
    decodeTableWord 32 0x03300000 = some (.contrast 0x30) ∧
    decodeTableWord 32 0x043F0000 = some (.scroll 63) ∧
    decodeTableWord 32 0x05060000 = some (.rotate 6) ∧
    decodeTableWord 32 0x06010000 = some (.invert 1) ∧
    decodeTableWord 32 0x07010000 = some (.allon 1) ∧
    decodeTableWord 32 0x08FF0000 = some (.dispen 0xFF) := by decide

theorem test_decode_requests_without_operands :
    decodeTableWord 32 0x09000000 = some .sysrst ∧ decodeTableWord 32 0x0A000000 = some .hwrst ∧
    decodeTableWord 32 0x0B000000 = some .init ∧ decodeTableWord 32 0x0C000000 = some .pwrdn ∧
    decodeTableWord 32 0x0D000000 = some .clear := by decide

theorem test_decode_text_requests :
    decodeTableWord 32 0x0E001300 = some (.setfont 19) ∧
    decodeTableWord 32 0x0F020000 = some (.setscale 2) ∧
    decodeTableWord 32 0x10010000 = some (.setaa 1) ∧
    decodeTableWord 32 0x11410000 = some (.putc 0x41) ∧
    decodeTableWord 32 0x1241BE07 = some (.putcat 0x41 190 7) := by decide

/-- R84 with the bytes of the wire vectors of 95 section 5 (`C0F`, `C1B`, `CB7`, `C60`, `CC4`, …). -/
theorem test_decode_wire_bytes :
    decodeTableWord 8 0x0F = some (.wireColl 15) ∧ decodeTableWord 8 0x1B = some (.wireColh 11) ∧
    decodeTableWord 8 0xB7 = some (.wirePage 7) ∧ decodeTableWord 8 0x60 = some (.wireScroll 0x20) ∧
    decodeTableWord 8 0xC4 = some (.wireMap 4) ∧ decodeTableWord 8 0x81 = some .wireVbias ∧
    decodeTableWord 8 0xA5 = some (.wireAllon 1) ∧ decodeTableWord 8 0xA7 = some (.wireInv 1) ∧
    decodeTableWord 8 0xAF = some (.wireDispen 1) ∧ decodeTableWord 8 0xE2 = some .wireSysrst := by decide

/-- R83: the byte after the Vbias register byte is a value, whatever it is. A byte that is no register
command can be nothing else in the table (notes/assumptions/3). -/
theorem test_decode_vbias_value :
    decode RegCode.standard Config.mapMask (.vbiasValue 0x49) = .ok (.wireVbiasValue 0x49) ∧
    decode RegCode.standard Config.mapMask (.vbiasValue 0x00) = .ok (.wireVbiasValue 0x00) ∧
    decodeTableWord 8 0x80 = some (.wireVbiasValue 0x80) := by decide

/-- 95 section 5, the decode vectors. -/
theorem test_decode_rejects :
    decodeRequest 0x00000000 = .error .illegalOp ∧ decodeRequest 0x13000000 = .error .illegalOp ∧
    decodeRequest 0xFF000000 = .error .illegalOp ∧ decodeRequest 0x01000001 = .error .reservedField ∧
    decodeRequest 0x03000100 = .error .reservedField ∧ decodeRequest 0x09010000 = .error .reservedField ∧
    decodeRequest 0x0D000001 = .error .reservedField ∧ decodeRequest 0x0E000001 = .error .reservedField ∧
    decodeRequest 0x02C00001 = .error .reservedField ∧
    decodeRequest 0x12FFFFFF = .ok (.putcat 0xFF 0xFF 0xFF) ∧
    decodeWire RegCode.standard Config.mapMask 0x82 = .error .unknownWireByte := by decide

/-! ### States for the step tests -/

/-- The font memory `F0` of 95 section 1.2. -/
def fontF0 : List Byte :=
  [0x05, 0x08, 0x41, 0x43, 0x7C, 0x12, 0x11, 0x12, 0x7C, 0x7F, 0x49, 0x49, 0x49, 0x36, 0x01, 0x02, 0x04,
    0x08, 0x10, 0x06, 0x08, 0x41, 0x41, 0x00, 0x3E, 0x41, 0x41, 0x41, 0x3E]

/-- The parameters of 95 section 8: `INIT_SEQ = [0xAF]`, `PWRDN_PULSE`, `PWRDN_SEQ = [0xAE]`. -/
def testParams : Params where
  regcode       := RegCode.standard
  mapMask       := 0x06
  initSeq       := { cases := [], template := [.const 0xAF] }
  pwrdnPulse    := true
  pwrdnSeq      := [0xAE]
  vbiasDefault  := 0x49
  resetLowUs    := 3
  resetSettleMs := 5

/-- Block reset with those parameters and font `F0` (95 section 1.3). -/
def start : State := { State.reset with params := testParams, fm := Memory.ofBytes fontF0 }

/-- `start` after `setfont 0`, at a scale, a smoothing flag and a cursor. -/
def fontState (scale : BitVec 2) (aa : BitVec 1) (col : BitVec 16) (row : BitVec 8) : State :=
  { start with fontValid := 1, fw := 5, ffirst := 0x41, flast := 0x43, scale := scale, aa := aa, col := col,
               row := row }

/-- `s` with the request word `w` presented. -/
def offered (s : State) (w : Word32) : State := s.setInputs [.word (.req32 w)]

/-- What one step leaves to be seen. -/
structure Seen where
  trace    : List BusEvent
  statuses : List Status
  col      : Nat
  row      : Nat
  fault    : BitVec 4
  faultReq : Word32
  deriving DecidableEq, Repr

/-- What serving the request word `w` leaves to be seen. -/
def seen (s : State) (w : Word32) : Option Seen :=
  match step (offered s w) with
  | .next t => some ⟨t.trace, t.statuses, t.col.toNat, t.row.toNat, t.fault, t.faultReq⟩
  | .fault _ => none
  | .refused _ => none

/-- A transaction of command bytes. -/
def commands (bs : List Byte) : List BusEvent := sentTransaction (bs.flatMap sentFrame)

/-- A transaction of a cursor-set's three command bytes and data bytes. -/
def glyph (cs ds : List Byte) : List BusEvent := sentTransaction (cs.flatMap sentFrame ++ ds.map .byte)

/-- A request that reports DONE. -/
def done (events : List BusEvent) (col row : Nat) : Option Seen := some ⟨events, [.done], col, row, 0, 0⟩

/-- A request that faults. -/
def faulted (code : FaultCode) (n : BitVec 4) (w : Word32) (col row : Nat) : Option Seen :=
  some ⟨[], [.fault code], col, row, n, w⟩

/-! ### Framer vectors (95 section 5) -/

/-- R110's example, every event written out. -/
theorem test_sendcmd :
    seen start 0x01100500 =
      done [.txnBegin, .csAssert, .cdCommand, .byte 0x15, .cdData, .csDeassert, .txnEnd] 0 0 := by
  decide
theorem test_sendcmd_overlap : seen start 0x01110100 = faulted .overlap 4 0x01110100 0 0 := by decide
theorem test_setcur : seen start 0x02BF0700 = done (commands [0x0F, 0x1B, 0xB7]) 191 7 := by decide
theorem test_setcur_range :
    seen start 0x02C00000 = faulted .addrRange 5 0x02C00000 0 0 ∧
    seen start 0x02000800 = faulted .addrRange 5 0x02000800 0 0 := by decide
theorem test_contrast : seen start 0x03300000 = done (commands [0x81, 0x30]) 0 0 := by decide
theorem test_scroll :
    seen start 0x043F0000 = done (commands [0x7F]) 0 0 ∧
    seen start 0x04400000 = faulted .valueRange 3 0x04400000 0 0 := by decide
theorem test_rotate :
    seen start 0x05060000 = done (commands [0xC6]) 0 0 ∧
    seen start 0x05010000 = faulted .valueRange 3 0x05010000 0 0 := by decide
theorem test_invert :
    seen start 0x06010000 = done (commands [0xA7]) 0 0 ∧
    seen start 0x06020000 = faulted .valueRange 3 0x06020000 0 0 := by decide
theorem test_allon : seen start 0x07000000 = done (commands [0xA4]) 0 0 := by decide
theorem test_dispen :
    seen start 0x08010000 = done (commands [0xAF]) 0 0 ∧
    seen start 0x08FF0000 = faulted .valueRange 3 0x08FF0000 0 0 := by decide
theorem test_sysrst : seen (fontState 1 0 30 3) 0x09000000 = done (commands [0xE2]) 30 3 := by decide
theorem test_hwrst : seen start 0x0A000000 = done [.resetPulse 3 5] 0 0 := by decide
theorem test_init :
    seen start 0x0B000000 = done (.resetPulse 3 5 :: commands [0xAF]) 0 0 ∧
    seen { start with params := { testParams with initSeq := { cases := [], template := [] } } } 0x0B000000 =
      done [.resetPulse 3 5] 0 0 := by decide
/-- The configuration reaches `INIT_SEQ` (R45; the shape is that of 93 G7). -/
theorem test_init_reads_configuration :
    initCommands { cases := [⟨0x30, 0x04, 1, [0xE2]⟩], template := [.contrast, .orient 0xC0, .inverse 0xA6] }
        0x49 0x04 1 = [0x49, 0xC4, 0xA7] ∧
    initCommands { cases := [⟨0x30, 0x04, 1, [0xE2]⟩], template := [] } 0x30 0x04 1 = [0xE2] := by decide
theorem test_pwrdn :
    seen start 0x0C000000 = done (.resetPulse 3 5 :: commands [0xAE]) 0 0 ∧
    seen { start with params := { testParams with pwrdnPulse := false } } 0x0C000000 =
      done (commands [0xAE]) 0 0 := by decide
/-- 1612 events, 1560 of them `BYTE`, and the cursor home. -/
theorem test_clear :
    (seen { start with col := 50, row := 5 } 0x0D000000).map
        (fun x => (x.trace.length, byteCount x.trace, x.col, x.row)) = some (1612, 1560, 0, 0) := by decide +kernel

/-- Configuration registers after CONTRAST, ROTATE and INVERT (95 program P1). -/
theorem test_configuration_registers :
    (match step (offered start 0x03300000) with | .next t => t.contrast | _ => 0) = 0x30 ∧
    (match step (offered start 0x05040000) with | .next t => t.orient | _ => 0) = 0x04 ∧
    (match step (offered start 0x06010000) with | .next t => t.inverse | _ => 0) = 1 := by decide

/-! ### Text vectors (95 section 6) -/

/-- The font registers after a request, as one list of numbers. -/
def fontOf (s : State) (w : Word32) : List Nat :=
  match step (offered s w) with
  | .next t => [t.fontValid.toNat, t.fontBase.toNat, t.fw.toNat, t.ffirst.toNat, t.flast.toNat]
  | _ => []

theorem test_setfont :
    fontOf start 0x0E000000 = [1, 0, 5, 0x41, 0x43] ∧
    fontOf start 0x0E001300 = [1, 19, 6, 0x41, 0x41] ∧
    fontOf start 0x0E001900 = [1, 25, 0x41, 0x41, 0x3E] := by decide
theorem test_setfont_range : seen start 0x0E001A00 = faulted .fontOob 7 0x0E001A00 0 0 := by decide
theorem test_setscale :
    (match step (offered start 0x0F020000) with | .next t => t.scale | _ => 0) = 2 ∧
    (match step (offered (fontState 2 0 0 0) 0x0F000000) with | .next t => t.scale | _ => 0) = 2 ∧
    seen start 0x0FFF0000 = done [] 0 0 := by decide
theorem test_setaa :
    (match step (offered start 0x10010000) with | .next t => t.aa | _ => 0) = 1 ∧
    seen start 0x10020000 = faulted .valueRange 3 0x10020000 0 0 := by decide
/-- A 1x glyph; the right edge without a wrap; a wrap; a smoothed 2x glyph. -/
theorem test_putc_glyphs :
    seen (fontState 1 0 0 0) 0x11410000 =
      done (glyph [0x00, 0x10, 0xB0] [0x00, 0x7C, 0x12, 0x11, 0x12, 0x7C]) 6 0 ∧
    seen (fontState 1 0 191 3) 0x11410000 =
      done (glyph [0x0F, 0x1B, 0xB3] [0x00, 0x7C, 0x12, 0x11, 0x12, 0x7C]) 197 3 ∧
    seen (fontState 1 0 192 0) 0x11420000 =
      done (glyph [0x00, 0x10, 0xB1, 0x00, 0x10, 0xB1] [0x00, 0x7F, 0x49, 0x49, 0x49, 0x36]) 6 1 ∧
    seen (fontState 2 1 0 7) 0x11410000 =
      done (glyph [0x00, 0x10, 0xB7]
        [0x00, 0x00, 0xF0, 0xF8, 0x1C, 0x0E, 0x07, 0x07, 0x0E, 0x1C, 0xF8, 0xF0]) 12 7 := by
  decide +kernel
/-- CR, LF, TAB, BS and an unrecognised code; a dropped reposition. -/
theorem test_putc_control_codes :
    seen (fontState 1 0 30 3) 0x110D0000 = done [] 0 3 ∧
    seen (fontState 1 0 30 3) 0x110A0000 = done (commands [0x0E, 0x11, 0xB4]) 30 4 ∧
    seen (fontState 2 0 12 0) 0x11090000 = done (commands [0x0C, 0x13, 0xB0]) 60 0 ∧
    seen (fontState 1 0 180 0) 0x11090000 = done [] 204 0 ∧
    seen (fontState 1 0 4 0) 0x11080000 = done (commands [0x00, 0x10, 0xB0]) 0 0 ∧
    seen (fontState 1 0 30 0) 0x117F0000 = done [] 30 0 := by decide
theorem test_putcat :
    seen (fontState 1 0 0 0) 0x12420A02 =
      done (glyph [0x0A, 0x10, 0xB2] [0x00, 0x7F, 0x49, 0x49, 0x49, 0x36]) 16 2 ∧
    seen (fontState 1 0 5 5) 0x120D6404 = done [] 0 4 := by decide
/-- A glyph cut off by the end of the font memory (`FMb`) faults, and the cursor keeps its old place. -/
theorem test_putcat_fault_keeps_the_cursor :
    seen { fontState 1 0 5 5 with
        flast := 0x42,
        fm := Memory.ofBytes [0x05, 0x08, 0x41, 0x42, 1, 2, 3, 4, 5, 6, 7, 8, 9] } 0x12420A02 =
      faulted .fontOob 7 0x12420A02 5 5 := by decide

/-! ### Wire rows, faults and reset -/

/-- A wire row sends its one register command (R84; notes/assumptions/2). -/
theorem test_wire_rows :
    (match step (start.withFetchWord 8 0xB7) with | .next t => t.trace | _ => []) = commands [0xB7] ∧
    (match step (start.withFetchWord 8 0x81) with | .next t => t.trace | _ => []) = commands [0x81] ∧
    (match exec (.wireVbiasValue 0x49) start with | .next t => t.trace | _ => []) = commands [0x49] := by
  decide

/-- The first instruction after reset, with the default parameters. -/
theorem test_first_step_from_reset :
    (match step (State.reset.withFetchWord 32 0x02640300) with | .next t => (t.col, t.row) | _ => (0, 0)) =
      (100, 3) := by decide

/-- 95 section 7: the first fault in the order of R234, and a rejected request. -/
theorem test_fault_priority :
    seen start 0x1241C800 = faulted .addrRange 5 0x1241C800 0 0 ∧
    seen start 0x12000001 = faulted .noFont 6 0x12000001 0 0 ∧
    seen start 0x02C00001 = faulted .reservedField 2 0x02C00001 0 0 ∧
    seen { start with fault := 4, faultReq := 0x01101000 } 0x00000000 =
      some ⟨[], [.rejected], 0, 0, 4, 0x01101000⟩ := by decide

/-- Only block reset clears a fault (R232, R260). -/
theorem test_block_reset :
    (match step ({ fontState 2 1 30 3 with fault := 4, faultReq := 7 }.setInputs [.blockReset]) with
      | .next t => decide (t = start) | _ => false) = true := by decide

/-! ### Stretch and smoothing (95 sections 3 and 4) -/

theorem test_stretch :
    stretch 0xA5 = 0xCC33 ∧ stretch 0x12 = 0x030C ∧ stretch 0x80 = 0xC000 ∧ stretch 0x36 = 0x0F3C ∧
    stretchFast 0x7C = 0x3FF0 := by decide

theorem test_build_stretch :
    buildStretch [0x7F, 0x49, 0x49, 0x49, 0x36] =
      [0x00, 0x00, 0xFF, 0xFF, 0xC3, 0xC3, 0xC3, 0xC3, 0xC3, 0xC3, 0x3C, 0x3C,
       0x00, 0x00, 0x3F, 0x3F, 0x30, 0x30, 0x30, 0x30, 0x30, 0x30, 0x0F, 0x0F] := by decide +kernel

theorem test_smooth_diagonal :
    smooth (buildStretch [0x01, 0x02, 0x04, 0x08, 0x10]) =
      [0x00, 0x00, 0x03, 0x07, 0x0E, 0x1C, 0x38, 0x70, 0xE0, 0xC0, 0x80, 0x00,
       0x00, 0x00, 0x00, 0x00, 0x00, 0x00, 0x00, 0x00, 0x00, 0x01, 0x03, 0x03] := by decide +kernel

theorem test_smooth_mirrored :
    smooth (buildStretch [0x20, 0x40, 0x80, 0x40, 0x20]) =
      [0x00, 0x00, 0x00, 0x00, 0x00, 0x00, 0x00, 0x00, 0x00, 0x00, 0x00, 0x00,
       0x00, 0x00, 0x0C, 0x1C, 0x38, 0x30, 0xC0, 0xC0, 0x30, 0x38, 0x1C, 0x0C] := by decide +kernel

/-- The raw-buffer vectors: raw column 0 is in no pair, raw column 1 is. -/
theorem test_smooth_edges :
    smooth ([0x0C, 0x03] ++ List.replicate 22 0x00) = [0x0C, 0x03] ++ List.replicate 22 0x00 ∧
    smooth ([0x00, 0x0C, 0x03] ++ List.replicate 21 0x00) = [0x00, 0x0E, 0x07] ++ List.replicate 21 0x00 := by
  decide +kernel

/-! ### Assembler (30_encoding.md R90 to R94) -/

theorem test_assembler_requests :
    assembleLine "sendcmd 0x10, 0x05 ; a comment".toList = some [.req32 0x01100500] ∧
    assembleLine "setcur 100, 3".toList = some [.req32 0x02640300] ∧
    assembleLine "setfont 0x1234".toList = some [.req32 0x0E123400] ∧
    assembleLine "putcat 'A', 10, 2".toList = some [.req32 0x12410A02] ∧
    assembleLine "rotate 0b100".toList = some [.req32 0x05040000] := by decide +kernel

theorem test_assembler_codes :
    assembleLine "putc '\\n'".toList = some [.req32 0x110A0000] ∧
    assembleLine "string \"A\\n\"".toList = some [.req32 0x11410000, .req32 0x110A0000] := by decide +kernel

/-- The number forms the model accepts and rejects beyond R90's examples (DESIGN CHOICE, notes/assumptions/15). -/
theorem test_assembler_number_forms :
    numberValue "0x0C".toList = some 12 ∧ numberValue "0x0c".toList = some 12 ∧
    numberValue "0b1100".toList = some 12 ∧ numberValue "0X0C".toList = none ∧
    numberValue "0B11".toList = none ∧ numberValue "012".toList = none ∧ numberValue "0x".toList = none ∧
    numberValue "12u".toList = none := by decide +kernel

/-- A semicolon inside a literal is an ordinary character (DESIGN CHOICE, notes/assumptions/15); after one it
starts a comment (R90). -/
theorem test_assembler_semicolon :
    assembleLine "putc ';' ; a comment".toList = some [.req32 0x113B0000] ∧
    assembleLine "string \"A;\" ; a comment".toList = some [.req32 0x11410000, .req32 0x113B0000] := by
  decide +kernel

/-- R91: an operand that does not fit its field is rejected; a request-level range is not checked. -/
theorem test_assembler_ranges :
    assembleLine "setcur 256, 0".toList = none ∧ assembleLine "setfont 65536".toList = none ∧
    assembleLine "setcur 255, 255".toList = some [.req32 0x02FFFF00] ∧
    assembleLine "setcur 1".toList = none ∧ assembleLine "jump 1".toList = none := by decide +kernel

/-! ### Witnesses: concrete states and operands that meet the hypotheses of each statement, clause by
clause at the edges of its range -/

/-- `start` with block reset presented, faulted. -/
def faultedStart : State := { start with fault := 9, faultReq := 0x11090000 }

/-- A printable code with its whole glyph at the very end of the font memory. -/
def tightFont : State := { fontState 1 0 191 7 with fm := Memory.ofBytes (fontF0.take 9) }

/-- A font 6 columns wide at scale 2. -/
def wideFont : State := { fontState 2 0 0 0 with fw := 6 }

theorem start_inv : start.Inv where
  row := by decide
  cs := rfl
  cd := rfl
  scale := by decide
  orient := by decide
  noFault := fun _ => rfl
  fault := by decide

theorem fontState_inv : (fontState 2 1 191 7).Inv where
  row := by decide
  cs := rfl
  cd := rfl
  scale := by decide
  orient := by decide
  noFault := fun _ => rfl
  fault := by decide

theorem witness_DecodeOfEncodeIsTheInstruction :
    (Instr.wireMap 0x06).wellFormed = true ∧ (Instr.putcat 0xFF 0xFF 0xFF).wellFormed = true ∧
    (Instr.setfont 0xFFFF).wellFormed = true := by decide

theorem witness_EncodeOfDecodedRequestIsTheWord :
    decode RegCode.standard 0x06 (.req32 0x12FFFFFF) = .ok (.putcat 0xFF 0xFF 0xFF) := by decide

theorem witness_IllegalOpcodeFaults :
    start.fault = 0 ∧ (offered start 0x00FFFFFF).inputs = .word (.req32 0x00FFFFFF) :: [] ∧
    (0x00FFFFFF : Word32).toNat / 2 ^ 24 = 0 ∧ 0x13 ≤ (0x13000000 : Word32).toNat / 2 ^ 24 ∧
    0x13 ≤ (0xFFFFFFFF : Word32).toNat / 2 ^ 24 := by decide

theorem witness_ReservedFieldFaults :
    start.fault = 0 ∧ (offered start 0x01000001).inputs = .word (.req32 0x01000001) :: [] ∧
    reservedFieldSet 0x01000001 ∧ reservedFieldSet 0x0E0000FF ∧ reservedFieldSet 0x11000100 ∧
    reservedFieldSet 0x03000001 ∧ reservedFieldSet 0x09010000 ∧ reservedFieldSet 0x0D000001 := by
  refine ⟨rfl, rfl, ?_, ?_, ?_, ?_, ?_, ?_⟩ <;> unfold reservedFieldSet <;> decide

theorem witness_StepRunsTheDecodedInstruction :
    start.fault = 0 ∧ (offered start 0x02BF0700).inputs = .word (.req32 0x02BF0700) :: [] ∧
    decode start.params.regcode start.params.mapMask (.req32 0x02BF0700) = .ok (.setcur 191 7) := by decide

theorem witness_BlockResetRestoresEveryElement :
    (faultedStart.setInputs [.blockReset]).inputs = .blockReset :: [] := rfl

theorem witness_StepKeepsTheStateInvariants :
    (∃ t, step (offered start 0x02BF0700) = .next t) ∧ (offered start 0x02BF0700).Inv ∧
    (offered start 0x02BF0700).fontUnset :=
  ⟨⟨_, rfl⟩, ⟨by decide, rfl, rfl, by decide, by decide, fun _ => rfl, by decide⟩,
    fun _ => ⟨rfl, rfl, rfl, rfl⟩⟩

theorem witness_StepKeepsTheBusDiscipline :
    (offered start 0x02BF0700).busIdle ∧ ∃ t, step (offered start 0x02BF0700) = .next t :=
  ⟨rfl, _, rfl⟩

theorem witness_StepNeverStops :
    (∀ b, (offered start 0xFFFFFFFF).inputs.head? ≠ some (.word (.cmd8 b))) ∧
    (∀ b, start.inputs.head? ≠ some (.word (.cmd8 b))) ∧
    (∀ b, (start.setInputs [.blockReset]).inputs.head? ≠ some (.word (.cmd8 b))) := by decide

theorem witness_StepKeepsFontMemoryAndParameters : ∃ t, step (offered start 0x0E000000) = .next t :=
  ⟨_, rfl⟩

theorem witness_FaultedBlockRejectsUntilReset :
    faultedStart.fault ≠ 0 ∧ (offered faultedStart 0x0A000000).inputs = .word (.req32 0x0A000000) :: [] ∧
    (∃ t, step (faultedStart.setInputs [.blockReset]) = .next t ∧ t.fault ≠ faultedStart.fault ∧
      t.faultReq ≠ faultedStart.faultReq) :=
  ⟨by decide, rfl, _, rfl, by decide, by decide⟩

theorem witness_FaultChangesNothingElse :
    start.fault = 0 ∧ (offered start 0x02BF0700).inputs = .word (.req32 0x02BF0700) :: [] ∧
    (∃ t, step (offered start 0x02BF0700) = .next t ∧ t.fault = 0) ∧
    (∃ t, step (offered start 0x02C00700) = .next t ∧ t.fault ≠ 0) ∧
    (∃ t, step (offered start 0x00000000) = .next t ∧ t.fault ≠ 0) :=
  ⟨rfl, rfl, ⟨_, rfl, rfl⟩, ⟨_, rfl, by decide⟩, ⟨_, rfl, by decide⟩⟩

theorem witness_EachWordGetsOneStatus :
    (∃ t, step (offered start 0x02BF0700) = .next t) ∧ (∃ t, step (offered start 0x02C00000) = .next t) ∧
    (∃ t, step (offered faultedStart 0x02BF0700) = .next t) :=
  ⟨⟨_, rfl⟩, ⟨_, rfl⟩, ⟨_, rfl⟩⟩

theorem witness_OnlyItsOwnRequestsWriteARegister :
    (∃ t, exec (.setcur 191 7) start = .next t ∧ t.col ≠ start.col) ∧
    (∃ t, exec (.setscale 2) start = .next t ∧ t.scale ≠ start.scale) ∧
    (∃ t, exec (.setaa 1) start = .next t ∧ t.aa ≠ start.aa) ∧
    (∃ t, exec (.setfont 0) start = .next t ∧ t.fontValid ≠ start.fontValid) ∧
    (∃ t, exec (.contrast 0x30) start = .next t ∧ t.contrast ≠ start.contrast) ∧
    (∃ t, exec (.rotate 6) start = .next t ∧ t.orient ≠ start.orient) ∧
    (∃ t, exec (.invert 1) start = .next t ∧ t.inverse ≠ start.inverse) :=
  ⟨⟨_, rfl, by decide⟩, ⟨_, rfl, by decide⟩, ⟨_, rfl, by decide⟩, ⟨_, rfl, by decide⟩, ⟨_, rfl, by decide⟩,
    ⟨_, rfl, by decide⟩, ⟨_, rfl, by decide⟩⟩

theorem witness_TheBlockNeverReadsTheBus : ∃ t, exec (.putc 0x41) (fontState 1 0 191 7) = .next t := ⟨_, rfl⟩

theorem witness_ResetPulsesKeepTheMinimums :
    legalParams start.params ∧ ∃ t, step (offered start 0x0A000000) = .next t :=
  ⟨⟨by decide, by decide⟩, _, rfl⟩

theorem witness_CursorCommandsStayOnTheSurface :
    (fontState 2 1 191 7).Inv ∧ (fontState 2 1 191 7).params.regcode = RegCode.standard ∧
    (∃ t, exec (.setcur 191 7) (fontState 2 1 191 7) = .next t) ∧
    (∃ t, exec .clear (fontState 2 1 191 7) = .next t) ∧
    (∃ t, exec (.putc 0x41) (fontState 2 1 191 7) = .next t) ∧
    (∃ t, exec (.putcat 0x41 191 6) (fontState 2 1 191 7) = .next t) :=
  ⟨fontState_inv, rfl, ⟨_, rfl⟩, ⟨_, rfl⟩, ⟨_, rfl⟩, ⟨_, rfl⟩⟩

theorem witness_SendcmdSendsOneByte :
    start.fault = 0 ∧ (0xF0 : Byte) &&& 0x0F = 0 ∧ (0x11 : Byte) &&& 0x01 ≠ 0 := by decide

theorem witness_SetcurMovesTheCursor :
    start.fault = 0 ∧ ((191 : Byte).toNat < 192 ∧ (7 : Byte).toNat < 8) ∧ 192 ≤ (192 : Byte).toNat ∧
    8 ≤ (8 : Byte).toNat := by decide

theorem witness_ContrastSendsTwoFrames : start.fault = 0 := rfl

theorem witness_ScrollSendsTheLine :
    start.fault = 0 ∧ (63 : Byte).toNat < 64 ∧ 64 ≤ (64 : Byte).toNat := by decide

theorem witness_RotateSetsTheOrientation :
    start.fault = 0 ∧ (0x06 : Byte) &&& ~~~start.params.mapMask = 0 ∧
    (0x01 : Byte) &&& ~~~start.params.mapMask ≠ 0 := by decide

theorem witness_InvertSetsTheInversion :
    start.fault = 0 ∧ (1 : Byte).toNat ≤ 1 ∧ 1 < (2 : Byte).toNat := by decide

theorem witness_AllonAndDispenSendTheirFlag :
    start.fault = 0 ∧ (1 : Byte).toNat ≤ 1 ∧ 1 < (2 : Byte).toNat := by decide

theorem witness_DisplayResetsLeaveTheBlockAlone : (fontState 2 1 191 7).fault = 0 := rfl

theorem witness_InitPulsesThenSendsItsSequence :
    start.fault = 0 ∧
    initCommands start.params.initSeq start.contrast start.orient start.inverse = [0xAF] ∧
    initCommands { cases := [], template := [] } start.contrast start.orient start.inverse = [] := by decide

theorem witness_PwrdnSendsItsSequence :
    start.fault = 0 ∧ start.params.pwrdnSeq ≠ [] ∧
    { start.params with pwrdnSeq := [] }.pwrdnSeq = [] := by decide

theorem witness_ClearHomesAndSendsTheFullClear : (fontState 1 0 191 7).fault = 0 := rfl

theorem witness_WireCommandsSendOneFrame : start.fault = 0 := rfl

theorem witness_DecodedWireByteGoesOutUnchanged :
    start.fault = 0 ∧ start.params.regcode = RegCode.standard ∧ start.params.mapMask = Config.mapMask ∧
    decode RegCode.standard Config.mapMask (.cmd8 0xC6) = .ok (.wireMap 6) := by decide

theorem witness_SetfontLatchesTheHeader :
    start.fault = 0 ∧ (25 : BitVec 16).toNat + 3 < start.fm.size ∧
    start.fm.size ≤ (26 : BitVec 16).toNat + 3 := by decide

theorem witness_SetscaleAndSetaaSetTheirRegister :
    start.fault = 0 ∧ ((0 : Byte) ≠ 1 ∧ (0 : Byte) ≠ 2) ∧ ((3 : Byte) ≠ 1 ∧ (3 : Byte) ≠ 2) ∧
    (1 : Byte).toNat ≤ 1 ∧ 1 < (2 : Byte).toNat := by decide

theorem witness_CharactersNeedAFont :
    start.fault = 0 ∧ start.fontValid = 0 ∧ ((191 : Byte).toNat < 192 ∧ (7 : Byte).toNat < 8) ∧
    192 ≤ (192 : Byte).toNat ∧ 8 ≤ (8 : Byte).toNat := by decide

theorem witness_CarriageReturnAndUnknownCodesSendNothing :
    (fontState 1 0 30 3).fault = 0 ∧ (fontState 1 0 30 3).fontValid = 1 ∧
    (0x40 : Byte).toNat < (fontState 1 0 30 3).ffirst.toNat ∧
    (fontState 1 0 30 3).flast.toNat < (0x44 : Byte).toNat ∧
    ((0x40 : Byte) ≠ 0x0D ∧ (0x40 : Byte) ≠ 0x0A ∧ (0x40 : Byte) ≠ 0x09 ∧ (0x40 : Byte) ≠ 0x08) ∧
    ((0x44 : Byte) ≠ 0x0D ∧ (0x44 : Byte) ≠ 0x0A ∧ (0x44 : Byte) ≠ 0x09 ∧ (0x44 : Byte) ≠ 0x08) := by decide

theorem witness_LineFeedMovesDownOrClears :
    (fontState 1 0 191 6).fault = 0 ∧ (fontState 1 0 191 6).fontValid = 1 ∧
    ((fontState 1 0 191 6).row.toNat + (fontState 1 0 191 6).scale.toNat < 8 ∧
      (fontState 1 0 191 6).col.toNat < 192) ∧
    ((fontState 2 0 192 5).row.toNat + (fontState 2 0 192 5).scale.toNat < 8 ∧
      192 ≤ (fontState 2 0 192 5).col.toNat) ∧
    8 ≤ (fontState 1 0 191 7).row.toNat + (fontState 1 0 191 7).scale.toNat := by decide

theorem witness_TabAdvancesFourGlyphs :
    (fontState 1 0 167 7).fault = 0 ∧ (fontState 1 0 167 7).fontValid = 1 ∧
    (fontState 1 0 167 7).row.toNat < 8 ∧ 8 ≤ (fontState 1 0 167 8).row.toNat ∧
    (fontState 1 0 167 7).col.toNat + 4 * glyphAdvance (fontState 1 0 167 7) = 191 ∧
    (fontState 1 0 168 7).col.toNat + 4 * glyphAdvance (fontState 1 0 168 7) = 192 ∧
    (fontState 1 0 65511 7).col.toNat + 4 * glyphAdvance (fontState 1 0 65511 7) = 65535 ∧
    (fontState 1 0 65512 7).col.toNat + 4 * glyphAdvance (fontState 1 0 65512 7) = 65536 := by decide

theorem witness_BackspaceMovesOneGlyphBack :
    (fontState 1 0 197 7).fault = 0 ∧ (fontState 1 0 197 7).fontValid = 1 ∧
    (fontState 1 0 197 7).row.toNat < 8 ∧ 8 ≤ (fontState 1 0 197 8).row.toNat ∧
    (fontState 1 0 197 7).col.toNat - glyphAdvance (fontState 1 0 197 7) = 191 ∧
    (fontState 1 0 4 7).col.toNat - glyphAdvance (fontState 1 0 4 7) = 0 ∧
    (fontState 1 0 198 7).col.toNat - glyphAdvance (fontState 1 0 198 7) = 192 := by decide

theorem witness_GlyphChecksComeFirst :
    wideFont.fault = 0 ∧ wideFont.fontValid = 1 ∧ printableCode wideFont 0x41 ∧
    (wideFont.scale = 2 ∧ wideFont.fw ≠ 5) ∧
    printableCode tightFont 0x42 ∧ ¬ (tightFont.scale = 2 ∧ tightFont.fw ≠ 5) ∧ 0 < tightFont.fw.toNat ∧
    tightFont.fm.size < glyphStart tightFont 0x42 + tightFont.fw.toNat ∧
    printableCode tightFont 0x41 ∧ glyphPresent tightFont 0x41 := by
  unfold printableCode glyphPresent
  decide

theorem witness_PutcPrintsAtTheCursor :
    tightFont.fault = 0 ∧ tightFont.fontValid = 1 ∧ drawableScale tightFont ∧ printableCode tightFont 0x41 ∧
    glyphPresent tightFont 0x41 ∧ tightFont.col.toNat < 192 ∧ drawableScale (fontState 2 1 191 7) := by
  unfold printableCode glyphPresent drawableScale
  decide

theorem witness_PutcWrapsThenPrints :
    (fontState 1 0 192 6).fault = 0 ∧ (fontState 1 0 192 6).fontValid = 1 ∧
    drawableScale (fontState 1 0 192 6) ∧ printableCode (fontState 1 0 192 6) 0x43 ∧
    glyphPresent (fontState 1 0 192 6) 0x43 ∧ 192 ≤ (fontState 1 0 192 6).col.toNat ∧
    (fontState 1 0 192 6).row.toNat + (fontState 1 0 192 6).scale.toNat < 8 ∧
    8 ≤ (fontState 1 0 192 7).row.toNat + (fontState 1 0 192 7).scale.toNat := by
  unfold printableCode glyphPresent drawableScale
  decide

theorem witness_PrintedColumnStaysBelow704 :
    (fontState 2 1 191 7).Inv ∧ (fontState 2 1 191 7).fault = 0 ∧ printableCode (fontState 2 1 191 7) 0x41 ∧
    ∃ t, exec (.putc 0x41) (fontState 2 1 191 7) = .next t ∧ t.fault = 0 :=
  ⟨fontState_inv, rfl, by unfold printableCode; decide, _, rfl, rfl⟩

theorem witness_PutcatIsPutcAtThePosition :
    (fontState 2 1 0 0).fault = 0 ∧ (fontState 2 1 0 0).fontValid = 1 ∧ 192 ≤ (192 : Byte).toNat ∧
    8 ≤ (8 : Byte).toNat ∧ ((191 : Byte).toNat < 192 ∧ (7 : Byte).toNat < 8) ∧
    (∃ t, exec (.putc 0x41) { fontState 2 1 0 0 with col := 191, row := 7 } = .next t ∧ t.fault = 0) ∧
    (∃ t, exec (.putc 0x41) { wideFont with col := 191, row := 7 } = .next t ∧ t.fault ≠ 0) :=
  ⟨rfl, rfl, by decide, by decide, by decide, ⟨_, rfl, rfl⟩, ⟨_, rfl, by decide⟩⟩

theorem witness_PutcatPrintsAtThePosition :
    tightFont.fault = 0 ∧ tightFont.fontValid = 1 ∧ drawableScale tightFont ∧ printableCode tightFont 0x41 ∧
    glyphPresent tightFont 0x41 ∧ (191 : Byte).toNat < 192 ∧ (7 : Byte).toNat < 8 := by
  unfold printableCode glyphPresent drawableScale
  decide

theorem witness_OnlyPrintableCodesSendData :
    (¬ printableCode (fontState 1 0 30 7) 0x0A ∧
      ∃ t, exec (.putc 0x0A) (fontState 1 0 30 7) = .next t) ∧
    (¬ printableCode (fontState 1 0 30 7) 0x08 ∧
      ∃ t, exec (.putc 0x08) (fontState 1 0 30 7) = .next t) :=
  ⟨⟨by unfold printableCode; decide, _, rfl⟩, ⟨by unfold printableCode; decide, _, rfl⟩⟩

theorem witness_GlyphByteCounts :
    tightFont.fault = 0 ∧ tightFont.fontValid = 1 ∧ drawableScale tightFont ∧ printableCode tightFont 0x41 ∧
    glyphPresent tightFont 0x41 ∧ tightFont.col.toNat < 192 ∧
    (∃ t, exec (.putc 0x41) tightFont = .next t) ∧ tightFont.scale = 1 ∧
    ((fontState 2 1 191 6).scale = 2 ∧ (fontState 2 1 191 6).row.toNat < 7) ∧
    ((fontState 2 1 191 7).scale = 2 ∧ 7 ≤ (fontState 2 1 191 7).row.toNat) :=
  ⟨rfl, rfl, by unfold drawableScale; decide, by unfold printableCode; decide,
    by unfold glyphPresent; decide, by decide, ⟨_, rfl⟩, rfl, by decide, by decide⟩

theorem witness_SmoothingFlagIsIdleAtScale1 :
    (fontState 1 0 191 7).scale = 1 ∧ ∃ t, exec (.putc 0x41) (fontState 1 0 191 7) = .next t :=
  ⟨rfl, _, rfl⟩

theorem witness_OneGlyphPastAFullLineWraps :
    (fontState 1 0 0 6).fault = 0 ∧ (fontState 1 0 0 6).fontValid = 1 ∧ drawableScale (fontState 1 0 0 6) ∧
    (∀ c ∈ List.replicate 33 (0x43 : Byte),
      printableCode (fontState 1 0 0 6) c ∧ glyphPresent (fontState 1 0 0 6) c) ∧
    (fontState 1 0 0 6).col = 0 ∧
    (List.replicate 33 (0x43 : Byte)).length =
      (192 + glyphAdvance (fontState 1 0 0 6) - 1) / glyphAdvance (fontState 1 0 0 6) + 1 ∧
    (fontState 1 0 0 6).row.toNat + (fontState 1 0 0 6).scale.toNat < 8 ∧
    8 ≤ (fontState 2 0 0 6).row.toNat + (fontState 2 0 0 6).scale.toNat := by
  unfold printableCode glyphPresent drawableScale
  decide +kernel

theorem witness_LineFeedsOverflowIntoAClear :
    (fontState 1 0 0 0).fault = 0 ∧ (fontState 1 0 0 0).fontValid = 1 ∧ (fontState 1 0 0 0).row = 0 ∧
    ((fontState 1 0 0 0).scale = 1 ∧ 7 = 7) ∧ ((fontState 2 0 0 0).scale = 2 ∧ 3 = 3) := by decide

theorem witness_StretchDoublesEachBit : (0 < 8) ∧ (7 < 8) := by decide

theorem witness_StretchCanBeUndone :
    stretch 0x5A = stretch 0x5A ∧ (0x1F : Byte) &&& 0x0F = 0x2F &&& 0x0F ∧
    (0xF1 : Byte) &&& 0xF0 = 0xF2 &&& 0xF0 := by decide

theorem witness_BuildStretchDoublesTheColumns :
    [0x7F, 0x49, 0x49, 0x49, (0x36 : Byte)].length = 5 ∧
    [0x7F, 0x49, 0x49, 0x49, (0x36 : Byte)][0]? = some 0x7F ∧
    [0x7F, 0x49, 0x49, 0x49, (0x36 : Byte)][4]? = some 0x36 := by decide

theorem witness_SmoothDecidesOnTheSnapshot :
    (buildStretch [0x7F, 0x49, 0x49, 0x49, 0x36]).length = 24 ∧ 0 < 12 ∧ 11 < 12 := by decide

theorem witness_SmoothOnlyAddsInnerBits :
    (buildStretch [0x7F, 0x49, 0x49, 0x49, 0x36]).length = 24 ∧ 0 < 24 ∧ 23 < 24 := by decide

theorem witness_StringIsOnePutcPerCharacter :
    (∀ c ∈ ['A', ' ', ';', '~'], c.toNat < 128 ∧ c.toNat ≠ 34 ∧ c.toNat ≠ 92) := by simp

end Sys2Proof.Tests
end

section
/-! The port: what a step does at a word, and what serving a word that decodes does. -/

namespace Sys2Proof.Machine

/-- With a word presented next, a step serves it in the state whose port has moved on. -/
theorem step_word {s : State} {p : PortWord} {rest : List HostInput}
    (hi : s.inputs = .word p :: rest) : step s = serveWord p (s.setInputs rest) := by
  simp only [step, serveNext, hi, serve]

/-- The gate of R232 is open and the decoder answers: serving the word is executing the instruction. -/
theorem serveWord_of_decode_ok {s : State} {p : PortWord} {i : Instr} (hf : s.fault = 0)
    (hd : decode s.params.regcode s.params.mapMask p = .ok i) : serveWord p s = exec i s := by
  rw [serveWord, if_neg (not_not_intro hf), hd]

/-- Settles O6: the step serves the word, and moving the port on changes neither `FAULT`, which the gate
tests, nor the parameters the decoder reads. -/
theorem stepRunsTheDecodedInstruction : Obligations.StepRunsTheDecodedInstruction := by
  intro s p rest i hf hi hd
  calc step s
      = serveWord p (s.setInputs rest) := step_word hi
    _ = exec i (s.setInputs rest) := serveWord_of_decode_ok hf hd
    _ = exec i { s with inputs := rest } := by rw [State.setInputs]

end Sys2Proof.Machine
end

section
/-! What an instruction may write: every instruction leaves its own write of a state element, or none, and
beyond that only the outputs and the fault registers differ (10_state.md R45). -/

namespace Sys2Proof.Machine

/-- The requests that may move the cursor (R45, the columns `COL` and `ROW`). -/
def MovesCursor (i : Instr) : Prop :=
  (∃ c p, i = .setcur c p) ∨ i = .clear ∨ (∃ c, i = .putc c) ∨ ∃ c x y, i = .putcat c x y

/-- The cursor alone is moved, and `ROW` stays or is a page of the display (R25). -/
def CursorMove (s s' : State) : Prop :=
  ∃ c r, s' = s.setCursor c r ∧ (r = s.row ∨ r.toNat < Config.pages)

/-- The write columns of R45: `s'` is `s` after the write that the instruction may make, with the range the
request has checked where R44 asks for one. -/
inductive OwnWrite (s : State) : Instr → State → Prop
  | nothing (i : Instr) : OwnWrite s i s
  | cursor {i : Instr} {s' : State} (hi : MovesCursor i) (h : CursorMove s s') : OwnWrite s i s'
  | contrast (v : Byte) : OwnWrite s (.contrast v) (s.setContrast v)
  | orient (v : Byte) (h : v &&& ~~~s.params.mapMask = 0) : OwnWrite s (.rotate v) (s.setOrient v)
  | inverse (v : Byte) (f : BitVec 1) : OwnWrite s (.invert v) (s.setInverse f)
  | scale (v : Byte) (sc : BitVec 2) (h : sc = 1 ∨ sc = 2) : OwnWrite s (.setscale v) (s.setScale sc)
  | aa (v : Byte) (f : BitVec 1) : OwnWrite s (.setaa v) (s.setAa f)
  | font (b base : BitVec 16) (width first last : Byte) :
      OwnWrite s (.setfont b) (s.setFont base width first last)

/-- `b` is `a` but for the outputs and the fault registers: the levels, `FAULT`, `FAULT_REQ`, the trace and
the statuses. -/
structure SameButOutputs (a b : State) : Prop where
  col       : b.col = a.col
  row       : b.row = a.row
  scale     : b.scale = a.scale
  aa        : b.aa = a.aa
  fontValid : b.fontValid = a.fontValid
  fontBase  : b.fontBase = a.fontBase
  fw        : b.fw = a.fw
  ffirst    : b.ffirst = a.ffirst
  flast     : b.flast = a.flast
  contrast  : b.contrast = a.contrast
  orient    : b.orient = a.orient
  inverse   : b.inverse = a.inverse
  fm        : b.fm = a.fm
  params    : b.params = a.params
  inputs    : b.inputs = a.inputs

theorem sameButOutputs_reject (s : State) : SameButOutputs s s.reject := by
  constructor <;> rfl

theorem sameButOutputs_takeFault (s : State) (code : FaultCode) (w : Word32) :
    SameButOutputs s (s.takeFault code w) := by
  constructor <;> rfl

theorem sameButOutputs_emit_report (s : State) (events : List BusEvent) (st : Status) :
    SameButOutputs s ((s.emit events).report st) := by
  constructor <;> rfl

/-- The state a rule leaves satisfies `P`, where it raises no fault. -/
def RuleResult.Leaves (P : State → Prop) : RuleResult → Prop
  | .done s' _ => P s'
  | .raise _ => True
  | .unmapped => True

theorem RuleResult.Leaves.mono {P Q : State → Prop} (h : ∀ s', P s' → Q s') :
    ∀ {r : RuleResult}, r.Leaves P → r.Leaves Q
  | .done _ _, hP => h _ hP
  | .raise _, _ => trivial
  | .unmapped, _ => trivial

/-! ### Cursor moves -/

theorem CursorMove.refl (s : State) : CursorMove s s := ⟨s.col, s.row, rfl, .inl rfl⟩

theorem cursorMove_keepRow (s : State) (c : BitVec 16) : CursorMove s (s.setCursor c s.row) :=
  ⟨c, s.row, rfl, .inl rfl⟩

theorem cursorMove_toPage (s : State) (c : BitVec 16) {r : BitVec 8} (h : r.toNat < Config.pages) :
    CursorMove s (s.setCursor c r) := ⟨c, r, rfl, .inr h⟩

theorem CursorMove.trans {a b c : State} (h : CursorMove a b) (k : CursorMove b c) : CursorMove a c := by
  obtain ⟨x, y, rfl, hy⟩ := h
  obtain ⟨x', y', rfl, rfl | hy'⟩ := k
  · exact ⟨x', _, rfl, hy⟩
  · exact cursorMove_toPage a x' hy'

theorem CursorMove.row_lt {s s' : State} (h : CursorMove s s') (hs : s.row.toNat < Config.pages) :
    s'.row.toNat < Config.pages := by
  obtain ⟨c, r, rfl, rfl | hr⟩ := h
  · exact hs
  · exact hr

/-- A text line moved down ends on a page of the display (41_text.md R155). -/
theorem nextLine_lt {r sc n : Nat} (h : nextLine r sc = some n) : (BitVec.ofNat 8 n).toNat < Config.pages := by
  obtain hlt | hge := Nat.lt_or_ge (r + sc) 8
  · rw [nextLine_down hlt] at h
    cases h
    rw [BitVec.toNat_ofNat, Nat.mod_eq_of_lt (by omega)]
    exact hlt
  · rw [nextLine_clear hge] at h
    cases h

theorem onSurface_iff {c p : Nat} : onSurface c p = true ↔ c < 192 ∧ p < 8 := by
  simp [onSurface]

theorem putLf_cursorMove (s : State) : (putLf s).Leaves (CursorMove s) := by
  unfold putLf
  split
  · exact cursorMove_toPage s 0 (by decide)
  · rename_i hn
    exact cursorMove_toPage s s.col (nextLine_lt hn)

theorem putTab_cursorMove (s : State) : (putTab s).Leaves (CursorMove s) := by
  unfold putTab
  dsimp only
  split
  · trivial
  · exact cursorMove_keepRow s _

theorem wrap_cursorMove (s : State) : CursorMove s (wrap s).1 := by
  unfold wrap
  split
  · split
    · exact cursorMove_toPage s 0 (by decide)
    · rename_i hn
      exact cursorMove_toPage s 0 (nextLine_lt hn)
  · exact .refl s

theorem putPrintable_cursorMove (c : Byte) (s : State) : (putPrintable c s).Leaves (CursorMove s) := by
  unfold putPrintable
  split
  · trivial
  · split
    · trivial
    · exact (wrap_cursorMove s).trans (cursorMove_keepRow _ _)

/-- A character moves the cursor and writes nothing else (41_text.md R157 to R164). -/
theorem putChar_cursorMove (c : Byte) (s : State) : (putChar c s).Leaves (CursorMove s) := by
  unfold putChar
  split
  · exact cursorMove_keepRow s 0
  · exact putLf_cursorMove s
  · exact putTab_cursorMove s
  · exact cursorMove_keepRow s _
  · exact putPrintable_cursorMove c s
  · exact CursorMove.refl s

/-! ### What each rule leaves -/

theorem ruleSendcmd_leaves (reg val : Byte) (s : State) :
    (ruleSendcmd reg val s).Leaves (OwnWrite s (.sendcmd reg val)) := by
  unfold ruleSendcmd
  split
  · trivial
  · exact .nothing _

theorem ruleSetcur_leaves (col page : Byte) (s : State) :
    (ruleSetcur col page s).Leaves (OwnWrite s (.setcur col page)) := by
  unfold ruleSetcur
  split
  · rename_i h
    exact .cursor (.inl ⟨col, page, rfl⟩) (cursorMove_toPage s _ (onSurface_iff.mp h).2)
  · trivial

theorem ruleContrast_leaves (v : Byte) (s : State) : (ruleContrast v s).Leaves (OwnWrite s (.contrast v)) :=
  OwnWrite.contrast v

theorem ruleScroll_leaves (line : Byte) (s : State) :
    (ruleScroll line s).Leaves (OwnWrite s (.scroll line)) := by
  unfold ruleScroll
  split
  · exact .nothing _
  · trivial

theorem ruleRotate_leaves (v : Byte) (s : State) : (ruleRotate v s).Leaves (OwnWrite s (.rotate v)) := by
  unfold ruleRotate
  split
  · rename_i h
    exact .orient v (by simpa [orientInRange] using h)
  · trivial

theorem ruleInvert_leaves (f : Byte) (s : State) : (ruleInvert f s).Leaves (OwnWrite s (.invert f)) := by
  unfold ruleInvert
  split
  · exact .inverse f _
  · trivial

theorem ruleAllon_leaves (f : Byte) (s : State) : (ruleAllon f s).Leaves (OwnWrite s (.allon f)) := by
  unfold ruleAllon
  split
  · exact .nothing _
  · trivial

theorem ruleDispen_leaves (f : Byte) (s : State) : (ruleDispen f s).Leaves (OwnWrite s (.dispen f)) := by
  unfold ruleDispen
  split
  · exact .nothing _
  · trivial

theorem ruleClear_leaves (s : State) : (ruleClear s).Leaves (OwnWrite s .clear) :=
  .cursor (.inr (.inl rfl)) (cursorMove_toPage s 0 (by decide))

theorem ruleSetfont_leaves (b : BitVec 16) (s : State) :
    (ruleSetfont b s).Leaves (OwnWrite s (.setfont b)) := by
  unfold ruleSetfont
  split
  · trivial
  · split
    · exact .font b b _ _ _
    · trivial

theorem ruleSetscale_leaves (sc : Byte) (s : State) :
    (ruleSetscale sc s).Leaves (OwnWrite s (.setscale sc)) := by
  unfold ruleSetscale
  split
  · rename_i h
    refine .scale sc _ ?_
    obtain rfl | rfl := h
    · exact .inl (by decide)
    · exact .inr (by decide)
  · exact .nothing _

theorem ruleSetaa_leaves (f : Byte) (s : State) : (ruleSetaa f s).Leaves (OwnWrite s (.setaa f)) := by
  unfold ruleSetaa
  split
  · exact .aa f _
  · trivial

theorem rulePutc_leaves (code : Byte) (s : State) : (rulePutc code s).Leaves (OwnWrite s (.putc code)) := by
  unfold rulePutc
  split
  · trivial
  · exact (putChar_cursorMove code s).mono fun _ => .cursor (.inr (.inr (.inl ⟨code, rfl⟩)))

theorem rulePutcat_leaves (code col row : Byte) (s : State) :
    (rulePutcat code col row s).Leaves (OwnWrite s (.putcat code col row)) := by
  unfold rulePutcat
  split
  · rename_i h
    split
    · trivial
    · have hpos := cursorMove_toPage s (col.zeroExtend 16) (onSurface_iff.mp h).2
      exact (putChar_cursorMove code _).mono fun _ hmove =>
        .cursor (.inr (.inr (.inr ⟨code, col, row, rfl⟩))) (hpos.trans hmove)
  · trivial

/-! ### What every instruction leaves -/

/-- A wire command is the shared execution of a rule that writes no state element. -/
theorem sendWire_eq_execute_leaves (i : Instr) (b : Byte) (s : State) :
    ∃ w r, sendWire b s = execute w s r ∧ r.Leaves (OwnWrite s i) :=
  ⟨0, _, sendWire_eq b s, OwnWrite.nothing i⟩

/-- Every instruction is the shared execution of a rule that makes the instruction's own write at most. -/
theorem exec_eq_execute_leaves (i : Instr) (s : State) :
    ∃ w r, exec i s = execute w s r ∧ r.Leaves (OwnWrite s i) := by
  cases i with
  | sendcmd reg val => exact ⟨_, _, rfl, ruleSendcmd_leaves reg val s⟩
  | setcur col page => exact ⟨_, _, rfl, ruleSetcur_leaves col page s⟩
  | contrast v => exact ⟨requestWord 0x03 v 0 0, _, rfl, ruleContrast_leaves v s⟩
  | scroll line => exact ⟨_, _, rfl, ruleScroll_leaves line s⟩
  | rotate v => exact ⟨_, _, rfl, ruleRotate_leaves v s⟩
  | invert f => exact ⟨_, _, rfl, ruleInvert_leaves f s⟩
  | allon f => exact ⟨_, _, rfl, ruleAllon_leaves f s⟩
  | dispen f => exact ⟨_, _, rfl, ruleDispen_leaves f s⟩
  | sysrst => exact ⟨requestWord 0x09 0 0 0, ruleSysrst s, rfl, OwnWrite.nothing _⟩
  | hwrst => exact ⟨requestWord 0x0A 0 0 0, ruleHwrst s, rfl, OwnWrite.nothing _⟩
  | init => exact ⟨requestWord 0x0B 0 0 0, ruleInit s, rfl, OwnWrite.nothing _⟩
  | pwrdn => exact ⟨requestWord 0x0C 0 0 0, rulePwrdn s, rfl, OwnWrite.nothing _⟩
  | clear => exact ⟨requestWord 0x0D 0 0 0, _, rfl, ruleClear_leaves s⟩
  | setfont b => exact ⟨_, _, rfl, ruleSetfont_leaves b s⟩
  | setscale sc => exact ⟨_, _, rfl, ruleSetscale_leaves sc s⟩
  | setaa f => exact ⟨_, _, rfl, ruleSetaa_leaves f s⟩
  | putc code => exact ⟨_, _, rfl, rulePutc_leaves code s⟩
  | putcat code col row => exact ⟨_, _, rfl, rulePutcat_leaves code col row s⟩
  | wireColl v => exact sendWire_eq_execute_leaves _ _ s
  | wireColh v => exact sendWire_eq_execute_leaves _ _ s
  | wirePage v => exact sendWire_eq_execute_leaves _ _ s
  | wireScroll v => exact sendWire_eq_execute_leaves _ _ s
  | wireMap v => exact sendWire_eq_execute_leaves _ _ s
  | wireVbias => exact sendWire_eq_execute_leaves _ _ s
  | wireAllon v => exact sendWire_eq_execute_leaves _ _ s
  | wireInv v => exact sendWire_eq_execute_leaves _ _ s
  | wireDispen v => exact sendWire_eq_execute_leaves _ _ s
  | wireSysrst => exact sendWire_eq_execute_leaves _ _ s
  | wireVbiasValue v => exact sendWire_eq_execute_leaves _ _ s

/-- R45 as an inversion of `exec`: the instruction's own write, and beyond it the outputs alone. -/
theorem exec_leaves {i : Instr} {s t : State} (h : exec i s = .next t) :
    ∃ s', OwnWrite s i s' ∧ SameButOutputs s' t := by
  obtain ⟨w, r, e, hr⟩ := exec_eq_execute_leaves i s
  rw [e] at h
  obtain ⟨-, rfl⟩ | ⟨-, s', events, rfl, rfl⟩ | ⟨-, code, -, rfl⟩ := execute_next h
  · exact ⟨s, .nothing i, sameButOutputs_reject s⟩
  · exact ⟨s', hr, sameButOutputs_emit_report s' events .done⟩
  · exact ⟨s, .nothing i, sameButOutputs_takeFault s code w⟩

/-- Settles O17: an instruction's own write changes no element of another column of R45, and what else it
leaves are outputs. -/
theorem onlyItsOwnRequestsWriteARegister : Obligations.OnlyItsOwnRequestsWriteARegister := by
  intro i s t h
  obtain ⟨s', hw, ho⟩ := exec_leaves h
  rw [ho.col, ho.row, ho.scale, ho.aa, ho.fontValid, ho.fontBase, ho.fw, ho.ffirst, ho.flast, ho.contrast,
    ho.orient, ho.inverse, ho.inputs]
  cases hw with
  | nothing => simp
  | cursor hi hmove =>
    obtain ⟨c, r, rfl, -⟩ := hmove
    exact ⟨fun _ => hi, by simp⟩
  | contrast v => simp
  | orient v _ => simp
  | inverse v f => simp
  | scale v sc _ => simp
  | aa v f => simp
  | font b base width first last => simp

end Sys2Proof.Machine
end

section
/-! The invariants of 10_state.md R44 and the font rule of R28: block reset establishes them, a rejection, a
fault and every instruction keep them. -/

namespace Sys2Proof.Machine

/-! ### The operations of the port -/

theorem inv_blockReset (s : State) : s.blockReset.Inv where
  row := by simp
  cs := rfl
  cd := rfl
  scale := .inl rfl
  orient := BitVec.zero_and
  noFault _ := rfl
  fault := by simp

theorem fontUnset_blockReset (s : State) : s.blockReset.fontUnset := fun _ => ⟨rfl, rfl, rfl, rfl⟩

theorem State.Inv.setInputs {s : State} (h : s.Inv) (rest : List HostInput) : (s.setInputs rest).Inv :=
  ⟨h.row, h.cs, h.cd, h.scale, h.orient, h.noFault, h.fault⟩

theorem State.Inv.reject {s : State} (h : s.Inv) : s.reject.Inv :=
  ⟨h.row, h.cs, h.cd, h.scale, h.orient, h.noFault, h.fault⟩

theorem State.Inv.takeFault {s : State} (h : s.Inv) (code : FaultCode) (w : Word32) :
    (s.takeFault code w).Inv :=
  ⟨h.row, h.cs, h.cd, h.scale, h.orient, fun h0 => absurd h0 (faultNumber_ne_zero code),
    faultNumber_le code⟩

/-! ### The writes -/

theorem OwnWrite.row_lt {i : Instr} {s s' : State} (hw : OwnWrite s i s')
    (hs : s.row.toNat < Config.pages) : s'.row.toNat < Config.pages := by
  cases hw with
  | cursor hi hmove => exact hmove.row_lt hs
  | _ => exact hs

theorem OwnWrite.scale_legal {i : Instr} {s s' : State} (hw : OwnWrite s i s')
    (hs : s.scale = 1 ∨ s.scale = 2) : s'.scale = 1 ∨ s'.scale = 2 := by
  cases hw with
  | cursor hi hmove =>
    obtain ⟨c, r, rfl, -⟩ := hmove
    exact hs
  | scale v sc hsc => exact hsc
  | _ => exact hs

theorem OwnWrite.orient_inside {i : Instr} {s s' : State} (hw : OwnWrite s i s')
    (hs : s.orient &&& ~~~s.params.mapMask = 0) : s'.orient &&& ~~~s'.params.mapMask = 0 := by
  cases hw with
  | cursor hi hmove =>
    obtain ⟨c, r, rfl, -⟩ := hmove
    exact hs
  | orient v hv => exact hv
  | _ => exact hs

theorem OwnWrite.fontUnset {i : Instr} {s s' : State} (hw : OwnWrite s i s') (hs : s.fontUnset) :
    s'.fontUnset := by
  cases hw with
  | cursor hi hmove =>
    obtain ⟨c, r, rfl, -⟩ := hmove
    exact hs
  | font b base width first last => exact fun h0 => absurd h0 (by simp)
  | _ => exact hs

/-! ### Every instruction, every word, every step -/

theorem State.Inv.exec {i : Instr} {s t : State} (hs : s.Inv) (h : exec i s = .next t) : t.Inv := by
  obtain ⟨s₁, hw, ho⟩ := exec_leaves h
  obtain ⟨-, rfl⟩ | ⟨hf, s₂, events, hrun, hev, rfl⟩ | ⟨-, code, w, -, rfl⟩ := exec_next h
  · exact hs.reject
  · exact
      { row := by rw [ho.row]; exact hw.row_lt hs.row
        cs := by simp [hrun.csLevel, hs.cs, hev.cs]
        cd := by simp [hrun.cdLevel, hs.cd, hev.cd]
        scale := by rw [ho.scale]; exact hw.scale_legal hs.scale
        orient := by rw [ho.orient, ho.params]; exact hw.orient_inside hs.orient
        noFault := fun _ => by simp [hrun.faultReq, hs.noFault hf]
        fault := by simp [hrun.fault, hf] }
  · exact hs.takeFault code w

theorem State.fontUnset.exec {i : Instr} {s t : State} (hs : s.fontUnset) (h : exec i s = .next t) :
    t.fontUnset := by
  obtain ⟨s', hw, ho⟩ := exec_leaves h
  have hs' := hw.fontUnset hs
  rwa [State.fontUnset, ← ho.fontValid, ← ho.fontBase, ← ho.fw, ← ho.ffirst, ← ho.flast] at hs'

/-- What a rejection, a fault and every instruction keep, serving a word keeps. -/
theorem serveWord_keeps {P : State → Prop} {p : PortWord} {s t : State}
    (hreject : P s → P s.reject) (hfault : ∀ code w, P s → P (s.takeFault code w))
    (hexec : ∀ i, P s → exec i s = .next t → P t) (hs : P s) (h : serveWord p s = .next t) : P t := by
  obtain ⟨-, rfl⟩ | ⟨-, i, -, hi⟩ | ⟨-, e, code, -, -, rfl⟩ := serveWord_next h
  · exact hreject hs
  · exact hexec i hs hi
  · exact hfault code _ hs

theorem State.Inv.serveWord {p : PortWord} {s t : State} (hs : s.Inv) (h : serveWord p s = .next t) :
    t.Inv :=
  serveWord_keeps .reject (fun code w hs => hs.takeFault code w) (fun _ => .exec) hs h

theorem State.fontUnset.serveWord {p : PortWord} {s t : State} (hs : s.fontUnset)
    (h : serveWord p s = .next t) : t.fontUnset :=
  serveWord_keeps (P := State.fontUnset) id (fun _ _ => id) (fun _ => .exec) hs h

/-- Settles O10: a step waits, resets the block, or serves a word. -/
theorem stepKeepsTheStateInvariants : Obligations.StepKeepsTheStateInvariants := by
  intro s t h
  obtain ⟨-, rfl⟩ | ⟨rest, -, rfl⟩ | ⟨p, rest, -, hp⟩ := step_next h
  · exact ⟨id, id⟩
  · exact ⟨fun _ => inv_blockReset _, fun _ => fontUnset_blockReset _⟩
  · exact ⟨fun hs => (hs.setInputs rest).serveWord hp,
      fun hs => State.fontUnset.serveWord (s := s.setInputs rest) hs hp⟩

/-- Reset and block reset agree (70_reset_and_hazards.md R260): the state after reset is what block reset
makes of it. -/
theorem blockReset_reset : State.reset.blockReset = State.reset := rfl

/-- Settles O9: the state after reset is a state after block reset, and its records begin empty. -/
theorem resetMeetsTheInvariants : Obligations.ResetMeetsTheInvariants := by
  refine ⟨?_, ?_, rfl, rfl, ⟨Nat.le_refl 3, Nat.le_refl 5⟩⟩
  · rw [← blockReset_reset]
    exact inv_blockReset _
  · rw [← blockReset_reset]
    exact fontUnset_blockReset _

end Sys2Proof.Machine
end

section
/-! `INIT_SEQ` as plain data (notes/assumptions/5): the configurations are finitely many, so a list with one
exact case for each stands for any function of them. -/

namespace Sys2Proof.Machine

/-- Every value of a `w`-bit register. -/
def everyBitVec (w : Nat) : List (BitVec w) := (List.finRange (2 ^ w)).map BitVec.ofFin

theorem mem_everyBitVec {w : Nat} (x : BitVec w) : x ∈ everyBitVec w :=
  List.mem_map.mpr ⟨x.toFin, List.mem_finRange _, rfl⟩

/-- Every value of `CONTRAST`, `ORIENT` and `INVERSE`. -/
def everyConfiguration : List (Byte × Byte × BitVec 1) :=
  (everyBitVec 8).product ((everyBitVec 8).product (everyBitVec 1))

theorem mem_everyConfiguration (k : Byte × Byte × BitVec 1) : k ∈ everyConfiguration :=
  List.pair_mem_product.mpr
    ⟨mem_everyBitVec _, List.pair_mem_product.mpr ⟨mem_everyBitVec _, mem_everyBitVec _⟩⟩

/-- The exact case of `INIT_SEQ` for one configuration. -/
def exactCase (f : Byte → Byte → BitVec 1 → List Byte) (k : Byte × Byte × BitVec 1) : InitCase where
  contrast := k.1
  orient   := k.2.1
  inverse  := k.2.2
  commands := f k.1 k.2.1 k.2.2

/-- The value of `INIT_SEQ` that lists a function's every case. -/
def exactInitSeq (f : Byte → Byte → BitVec 1 → List Byte) : InitSeq where
  cases    := everyConfiguration.map (exactCase f)
  template := []

/-- Where some case matches the configuration and every one that does has the commands `bs`, those are sent. -/
theorem initCommands_of_cases {q : InitSeq} {contrast orient : Byte} {inverse : BitVec 1} {bs : List Byte}
    (hex : ∃ k ∈ q.cases, k.contrast = contrast ∧ k.orient = orient ∧ k.inverse = inverse)
    (hall : ∀ k ∈ q.cases, k.contrast = contrast → k.orient = orient → k.inverse = inverse →
      k.commands = bs) :
    initCommands q contrast orient inverse = bs := by
  unfold initCommands
  split
  · rename_i k hk
    have hmatch := List.find?_some hk
    simp only [Bool.and_eq_true, beq_iff_eq] at hmatch
    obtain ⟨⟨hc, ho⟩, hi⟩ := hmatch
    exact hall k (List.mem_of_find?_eq_some hk) hc ho hi
  · rename_i hnone
    obtain ⟨k, hk, hc, ho, hi⟩ := hex
    have hno := List.find?_eq_none.mp hnone k hk
    simp [hc, ho, hi] at hno

/-- Settles O30: the function's own list of exact cases. -/
theorem initSeqStandsForEveryFunction : Obligations.InitSeqStandsForEveryFunction := by
  intro f
  refine ⟨exactInitSeq f, fun contrast orient inverse => initCommands_of_cases ?_ ?_⟩
  · exact ⟨exactCase f (contrast, orient, inverse),
      List.mem_map_of_mem (mem_everyConfiguration _), rfl, rfl, rfl⟩
  · intro k hk hc ho hi
    obtain ⟨⟨c, o, v⟩, -, rfl⟩ := List.mem_map.mp hk
    subst hc ho hi
    rfl

end Sys2Proof.Machine
end

section
/-! `AA` at scale 1 (10_state.md R27): the smoothing flag is read by the 2x path alone, so a character's rule
answers the same in a state with another flag, but for the flag itself. -/

namespace Sys2Proof.Machine

/-- The rule's result with the smoothing flag of the state it leaves set to `f`. -/
def RuleResult.setAa (f : BitVec 1) : RuleResult → RuleResult
  | .done s events => .done (s.setAa f) events
  | .raise code => .raise code
  | .unmapped => .unmapped

theorem wrap_setAa (s : State) (f : BitVec 1) : wrap (s.setAa f) = ((wrap s).1.setAa f, (wrap s).2) := by
  unfold wrap
  by_cases hc : s.col.toNat ≥ Config.width
  · rw [if_pos hc, if_pos (c := (s.setAa f).col.toNat ≥ Config.width) hc, State.setAa_row, State.setAa_scale]
    cases nextLine s.row.toNat s.scale.toNat <;> rfl
  · rw [if_neg hc, if_neg (c := (s.setAa f).col.toNat ≥ Config.width) hc]

/-- The wrap keeps the scale. -/
theorem wrap_scale (s : State) : (wrap s).1.scale = s.scale := by
  obtain ⟨x, y, hw, -⟩ := wrap_spec s
  rw [hw, State.setCursor_scale]

/-- The 1x path does not read the flag (41_text.md R165, R166). -/
theorem render_setAa {s : State} (h : s.scale = 1) (c : Byte) (f : BitVec 1) :
    render c (s.setAa f) = render c s := by
  have hga : glyphAddress (s.setAa f) c = glyphAddress s c := rfl
  simp only [render, hga, State.setAa_fm, State.setAa_fw, State.setAa_scale, h, if_true, State.setAa_params,
    State.setAa_col, State.setAa_row]

theorem putLf_setAa (s : State) (f : BitVec 1) : putLf (s.setAa f) = (putLf s).setAa f := by
  unfold putLf
  simp only [State.setAa_row, State.setAa_scale]
  split <;> rfl

theorem putTab_setAa (s : State) (f : BitVec 1) : putTab (s.setAa f) = (putTab s).setAa f := by
  have hadv : advance (s.setAa f) = advance s := rfl
  unfold putTab
  simp only [State.setAa_col, hadv]
  split <;> rfl

theorem putPrintable_setAa {s : State} (h : s.scale = 1) (c : Byte) (f : BitVec 1) :
    putPrintable c (s.setAa f) = (putPrintable c s).setAa f := by
  have hfault : glyphFault c (s.setAa f) = glyphFault c s := rfl
  have hrender : render c ((wrap s).1.setAa f) = render c (wrap s).1 :=
    render_setAa ((wrap_scale s).trans h) c f
  unfold putPrintable
  simp only [hfault, wrap_setAa, hrender]
  split
  · rfl
  · split <;> rfl

theorem putChar_setAa {s : State} (h : s.scale = 1) (c : Byte) (f : BitVec 1) :
    putChar c (s.setAa f) = (putChar c s).setAa f := by
  have hclass : classify (s.setAa f) c = classify s c := rfl
  unfold putChar
  rw [hclass]
  cases classify s c with
  | cr => rfl
  | lf => exact putLf_setAa s f
  | tab => exact putTab_setAa s f
  | bs => rfl
  | printable => exact putPrintable_setAa h c f
  | unrecognised => rfl

theorem rulePutc_setAa {s : State} (h : s.scale = 1) (c : Byte) (f : BitVec 1) :
    rulePutc c (s.setAa f) = (rulePutc c s).setAa f := by
  unfold rulePutc
  rw [State.setAa_fontValid, putChar_setAa h]
  split <;> rfl

/-- The shared execution does not read the flag (40_framer.md R104). -/
theorem execute_setAa {w : Word32} {s t : State} {r : RuleResult} (f : BitVec 1)
    (h : execute w s r = .next t) : execute w (s.setAa f) (r.setAa f) = .next (t.setAa f) := by
  obtain ⟨hf, rfl⟩ | ⟨hf, s', events, rfl, rfl⟩ | ⟨hf, code, rfl, rfl⟩ := execute_next h
  · exact execute_faulted w _ hf
  · exact execute_done w (s'.setAa f) events hf
  · exact execute_raise w code hf

/-- Settles O50: PUTC's rule and its execution commute with setting the flag. -/
theorem smoothingFlagIsIdleAtScale1 : Obligations.SmoothingFlagIsIdleAtScale1 := by
  intro s t c f hscale h
  have hrun := execute_setAa f h
  rw [← rulePutc_setAa hscale] at hrun
  exact hrun

end Sys2Proof.Machine
end

section
/-! Characters before any SETFONT (10_state.md R28): the faults of PUTC and PUTCAT in their order
(60_exceptions.md R234). -/

namespace Sys2Proof.Machine

/-- A request whose rule raises a fault, seen from outside (60_exceptions.md R231). -/
theorem execute_requestWord_raise {s : State} {code : FaultCode} {r : RuleResult} (op a b c : Byte)
    (hf : s.fault = 0) (hr : r = .raise code) :
    execute (requestWord op a b c) s r =
      .next (s.afterFault code.number code (wordOf op.toNat a.toNat b.toNat c.toNat)) := by
  rw [hr, execute_raise _ _ hf, takeFault_eq_afterFault, requestWord_eq_wordOf]

theorem rulePutc_noFont {s : State} (code : Byte) (hv : s.fontValid = 0) :
    rulePutc code s = .raise .noFont := if_pos hv

theorem rulePutcat_noFont {s : State} {col row : Byte} (code : Byte) (hv : s.fontValid = 0)
    (hpos : col.toNat < 192 ∧ row.toNat < 8) : rulePutcat code col row s = .raise .noFont := by
  rw [rulePutcat, if_pos (onSurface_iff.mpr hpos), if_pos hv]

theorem rulePutcat_offSurface {col row : Byte} (code : Byte) (s : State)
    (hpos : 192 ≤ col.toNat ∨ 8 ≤ row.toNat) : rulePutcat code col row s = .raise .addrRange := by
  rw [rulePutcat, if_neg (by rw [onSurface_iff]; omega)]

/-- Settles O37: PUTCAT tests its position before the font. -/
theorem charactersNeedAFont : Obligations.CharactersNeedAFont := by
  intro s code col row hf hv
  refine ⟨?_, fun hpos => ?_, fun hpos => ?_⟩
  · exact execute_requestWord_raise 0x11 code 0 0 hf (rulePutc_noFont code hv)
  · exact execute_requestWord_raise 0x12 code col row hf (rulePutcat_noFont code hv hpos)
  · exact execute_requestWord_raise 0x12 code col row hf (rulePutcat_offSurface code s hpos)

end Sys2Proof.Machine
end

section
/-! The arguments of a run (00_scope.md R8, 10_state.md R43): the font memory and the other parameters, which no
step writes. -/

namespace Sys2Proof.Machine

/-- `t` stands in the run of `s`: it has the same font memory and the same other parameters. -/
def SameArguments (s t : State) : Prop := t.fm = s.fm ∧ t.params = s.params

theorem SameArguments.trans {a b c : State} (h : SameArguments a b) (k : SameArguments b c) :
    SameArguments a c :=
  ⟨k.1.trans h.1, k.2.trans h.2⟩

theorem exec_sameArguments {i : Instr} {s t : State} (h : exec i s = .next t) : SameArguments s t := by
  obtain ⟨-, rfl⟩ | ⟨-, s', events, hrun, -, rfl⟩ | ⟨-, code, w, -, rfl⟩ := exec_next h
  · exact ⟨rfl, rfl⟩
  · exact ⟨hrun.fm, hrun.params⟩
  · exact ⟨rfl, rfl⟩

theorem serveWord_sameArguments {p : PortWord} {s t : State} (h : serveWord p s = .next t) :
    SameArguments s t :=
  serveWord_keeps (P := SameArguments s) id (fun _ _ => id) (fun _ hs hi => hs.trans (exec_sameArguments hi))
    ⟨rfl, rfl⟩ h

/-- Settles O13: waiting and block reset leave the arguments alone, and so does a word served. -/
theorem stepKeepsFontMemoryAndParameters : Obligations.StepKeepsFontMemoryAndParameters := by
  intro s t h
  obtain ⟨-, rfl⟩ | ⟨rest, -, rfl⟩ | ⟨p, rest, -, hp⟩ := step_next h
  · exact ⟨rfl, rfl⟩
  · exact ⟨rfl, rfl⟩
  · exact serveWord_sameArguments (s := s.setInputs rest) hp

end Sys2Proof.Machine
end

section
/-! The trace is written and never read (20_memory.md R56, R61): a rule at a state with another trace gives the
same result, but for that trace in the state it leaves. -/

namespace Sys2Proof.Machine

/-- `s` with the trace `earlier` in place of its own. -/
def State.setTrace (earlier : List BusEvent) (s : State) : State := { s with trace := earlier }

/-- The rule's result with `earlier` as the trace of the state it leaves. -/
def RuleResult.setTrace (earlier : List BusEvent) : RuleResult → RuleResult
  | .done s events => .done (s.setTrace earlier) events
  | .raise code => .raise code
  | .unmapped => .unmapped

/-- A rule that carries the trace along and does not read it. -/
def IgnoresTrace (rule : State → RuleResult) : Prop :=
  ∀ earlier s, rule (s.setTrace earlier) = (rule s).setTrace earlier

/-- Such a rule leaves the trace as it was: its events are emitted by the execution alone. -/
theorem IgnoresTrace.trace_eq {rule : State → RuleResult} (h : IgnoresTrace rule) {s s' : State}
    {events : List BusEvent} (hr : rule s = .done s' events) : s'.trace = s.trace := by
  have hself : rule s = (rule s).setTrace s.trace := h s.trace s
  rw [hr] at hself
  injection hself with hs'
  rw [hs', State.setTrace]

/-- A test that does not read the trace takes the same branch under any. -/
theorem IgnoresTrace.ite {test : State → Prop} [∀ s, Decidable (test s)] {yes no : State → RuleResult}
    (htest : ∀ earlier s, test (s.setTrace earlier) ↔ test s) (hyes : IgnoresTrace yes)
    (hno : IgnoresTrace no) : IgnoresTrace fun s => if test s then yes s else no s := by
  intro earlier s
  dsimp only
  rw [hyes, hno, apply_ite (RuleResult.setTrace earlier)]
  exact if_congr (htest earlier s) rfl rfl

/-! ### The rules of the requests -/

theorem ruleSetfont_ignoresTrace (b : BitVec 16) : IgnoresTrace (ruleSetfont b) := by
  intro earlier s
  have hfm : (s.setTrace earlier).fm = s.fm := rfl
  unfold ruleSetfont
  rw [hfm]
  split
  · rfl
  · split <;> rfl

theorem wrap_setTrace (earlier : List BusEvent) (s : State) :
    wrap (s.setTrace earlier) = ((wrap s).1.setTrace earlier, (wrap s).2) := by
  have hcol : (s.setTrace earlier).col = s.col := rfl
  have hrow : (s.setTrace earlier).row = s.row := rfl
  have hscale : (s.setTrace earlier).scale = s.scale := rfl
  unfold wrap
  rw [hcol, hrow, hscale]
  split
  · split <;> rfl
  · rfl

theorem putLf_ignoresTrace : IgnoresTrace putLf := by
  intro earlier s
  have hrow : (s.setTrace earlier).row = s.row := rfl
  have hscale : (s.setTrace earlier).scale = s.scale := rfl
  unfold putLf
  rw [hrow, hscale]
  split <;> rfl

theorem putTab_ignoresTrace : IgnoresTrace putTab :=
  .ite (fun _ _ => .rfl) (fun _ _ => rfl) fun _ _ => rfl

theorem putPrintable_ignoresTrace (c : Byte) : IgnoresTrace (putPrintable c) := by
  intro earlier s
  have hfault : glyphFault c (s.setTrace earlier) = glyphFault c s := rfl
  have hrender : render c ((wrap s).1.setTrace earlier) = render c (wrap s).1 := rfl
  unfold putPrintable
  rw [hfault, wrap_setTrace, hrender]
  split
  · rfl
  · split <;> rfl

theorem putChar_ignoresTrace (c : Byte) : IgnoresTrace (putChar c) := by
  intro earlier s
  have hclass : classify (s.setTrace earlier) c = classify s c := rfl
  unfold putChar
  rw [hclass]
  cases classify s c with
  | cr => rfl
  | lf => exact putLf_ignoresTrace earlier s
  | tab => exact putTab_ignoresTrace earlier s
  | bs => rfl
  | printable => exact putPrintable_ignoresTrace c earlier s
  | unrecognised => rfl

theorem rulePutc_ignoresTrace (code : Byte) : IgnoresTrace (rulePutc code) :=
  .ite (fun _ _ => .rfl) (fun _ _ => rfl) (putChar_ignoresTrace code)

theorem rulePutcat_ignoresTrace (code col row : Byte) : IgnoresTrace (rulePutcat code col row) :=
  .ite (fun _ _ => .rfl)
    (.ite (fun _ _ => .rfl) (fun _ _ => rfl) fun earlier s =>
      putChar_ignoresTrace code earlier (s.setCursor (col.zeroExtend 16) row))
    fun _ _ => rfl

/-! ### Every instruction -/

/-- A wire command sends a byte of the parameters and its operand, whatever the trace. -/
theorem sendWire_ignoresTrace (byte : Params → Byte) :
    ∃ w rule, (∀ s, sendWire (byte s.params) s = execute w s (rule s)) ∧ IgnoresTrace rule :=
  ⟨0, _, fun s => sendWire_eq (byte s.params) s, fun _ _ => rfl⟩

/-- Every instruction is the shared execution of one rule, the same in every state, that ignores the trace. A
rule whose one test reads operands and parameters alone takes the same branch under any trace. -/
theorem exec_eq_execute_ignoresTrace (i : Instr) :
    ∃ w rule, (∀ s, exec i s = execute w s (rule s)) ∧ IgnoresTrace rule := by
  cases i with
  | sendcmd reg val =>
    exact ⟨_, ruleSendcmd reg val, fun _ => rfl, .ite (fun _ _ => .rfl) (fun _ _ => rfl) fun _ _ => rfl⟩
  | setcur col page =>
    exact ⟨_, ruleSetcur col page, fun _ => rfl, .ite (fun _ _ => .rfl) (fun _ _ => rfl) fun _ _ => rfl⟩
  | contrast v => exact ⟨requestWord 0x03 v 0 0, ruleContrast v, fun _ => rfl, fun _ _ => rfl⟩
  | scroll line =>
    exact ⟨_, ruleScroll line, fun _ => rfl, .ite (fun _ _ => .rfl) (fun _ _ => rfl) fun _ _ => rfl⟩
  | rotate v =>
    exact ⟨_, ruleRotate v, fun _ => rfl, .ite (fun _ _ => .rfl) (fun _ _ => rfl) fun _ _ => rfl⟩
  | invert f =>
    exact ⟨_, ruleInvert f, fun _ => rfl, .ite (fun _ _ => .rfl) (fun _ _ => rfl) fun _ _ => rfl⟩
  | allon f =>
    exact ⟨_, ruleAllon f, fun _ => rfl, .ite (fun _ _ => .rfl) (fun _ _ => rfl) fun _ _ => rfl⟩
  | dispen f =>
    exact ⟨_, ruleDispen f, fun _ => rfl, .ite (fun _ _ => .rfl) (fun _ _ => rfl) fun _ _ => rfl⟩
  | sysrst => exact ⟨requestWord 0x09 0 0 0, ruleSysrst, fun _ => rfl, fun _ _ => rfl⟩
  | hwrst => exact ⟨requestWord 0x0A 0 0 0, ruleHwrst, fun _ => rfl, fun _ _ => rfl⟩
  | init => exact ⟨requestWord 0x0B 0 0 0, ruleInit, fun _ => rfl, fun _ _ => rfl⟩
  | pwrdn => exact ⟨requestWord 0x0C 0 0 0, rulePwrdn, fun _ => rfl, fun _ _ => rfl⟩
  | clear => exact ⟨requestWord 0x0D 0 0 0, ruleClear, fun _ => rfl, fun _ _ => rfl⟩
  | setfont b => exact ⟨_, ruleSetfont b, fun _ => rfl, ruleSetfont_ignoresTrace b⟩
  | setscale sc =>
    exact ⟨_, ruleSetscale sc, fun _ => rfl, .ite (fun _ _ => .rfl) (fun _ _ => rfl) fun _ _ => rfl⟩
  | setaa f =>
    exact ⟨_, ruleSetaa f, fun _ => rfl, .ite (fun _ _ => .rfl) (fun _ _ => rfl) fun _ _ => rfl⟩
  | putc code => exact ⟨_, rulePutc code, fun _ => rfl, rulePutc_ignoresTrace code⟩
  | putcat code col row =>
    exact ⟨_, rulePutcat code col row, fun _ => rfl, rulePutcat_ignoresTrace code col row⟩
  | wireColl v => exact sendWire_ignoresTrace fun p => p.regcode.coll ||| v
  | wireColh v => exact sendWire_ignoresTrace fun p => p.regcode.colh ||| v
  | wirePage v => exact sendWire_ignoresTrace fun p => p.regcode.page ||| v
  | wireScroll v => exact sendWire_ignoresTrace fun p => p.regcode.scroll ||| v
  | wireMap v => exact sendWire_ignoresTrace fun p => p.regcode.map ||| v
  | wireVbias => exact sendWire_ignoresTrace fun p => p.regcode.vbias
  | wireAllon v => exact sendWire_ignoresTrace fun p => p.regcode.allon ||| v
  | wireInv v => exact sendWire_ignoresTrace fun p => p.regcode.inv ||| v
  | wireDispen v => exact sendWire_ignoresTrace fun p => p.regcode.dispen ||| v
  | wireSysrst => exact sendWire_ignoresTrace fun p => p.regcode.sysrst
  | wireVbiasValue v => exact sendWire_ignoresTrace fun _ => v

/-- The shared execution of a rule that ignores the trace (40_framer.md R104): the events it appends are the
rule's own, or none, and so the same under any earlier trace. -/
theorem IgnoresTrace.execute {rule : State → RuleResult} (hrule : IgnoresTrace rule) {w : Word32}
    {s t : State} (h : execute w s (rule s) = .next t) :
    ∃ events, t.trace = s.trace ++ events ∧ ∀ earlier,
      Machine.execute w (s.setTrace earlier) (rule (s.setTrace earlier)) =
        .next (t.setTrace (earlier ++ events)) := by
  obtain ⟨hf, rfl⟩ | ⟨hf, s', events, hr, rfl⟩ | ⟨hf, code, hr, rfl⟩ := execute_next h
  · refine ⟨[], (List.append_nil _).symm, fun earlier => ?_⟩
    rw [List.append_nil]
    exact execute_faulted w _ hf
  · refine ⟨events, ?_, fun earlier => ?_⟩
    · rw [State.report_trace, State.emit_trace, hrule.trace_eq hr]
    · rw [hrule, hr]
      exact execute_done w (s'.setTrace earlier) events hf
  · refine ⟨[], (List.append_nil _).symm, fun earlier => ?_⟩
    rw [List.append_nil, hrule, hr]
    exact execute_raise w code hf

/-- Settles O18: every instruction executes a rule that ignores the trace. -/
theorem theBlockNeverReadsTheBus : Obligations.TheBlockNeverReadsTheBus := by
  intro i s t h
  obtain ⟨w, rule, hexec, hrule⟩ := exec_eq_execute_ignoresTrace i
  rw [hexec] at h
  obtain ⟨events, htrace, hrun⟩ := hrule.execute h
  exact ⟨events, htrace, fun earlier => (hexec _).trans (hrun earlier)⟩

end Sys2Proof.Machine
end

section
/-! The command bytes of the cursor and text requests (20_memory.md R62, 30_encoding.md R82, 40_framer.md R105):
all of them are sent by cursor-sets to positions on the surface. -/

namespace Sys2Proof.Machine

/-! ### What a request sends -/

/-- The events of a rule's result satisfy `P`, where it raises no fault. -/
def RuleResult.Sends (P : List BusEvent → Prop) : RuleResult → Prop
  | .done _ events => P events
  | .raise _ => True
  | .unmapped => True

/-- The shared execution appends the rule's events to the trace, or none where the block rejects or takes a
fault (20_memory.md R56, 60_exceptions.md R231, R232). -/
theorem execute_appends {P : List BusEvent → Prop} {w : Word32} {s t : State} {r : RuleResult}
    (hspec : RuleSpec s r) (hsends : r.Sends P) (hnil : P []) (h : execute w s r = .next t) :
    ∃ events, t.trace = s.trace ++ events ∧ P events := by
  obtain ⟨-, rfl⟩ | ⟨-, s', events, rfl, rfl⟩ | ⟨-, code, -, rfl⟩ := execute_next h
  · exact ⟨[], (List.append_nil _).symm, hnil⟩
  · obtain ⟨hrun, -⟩ := hspec
    exact ⟨events, by rw [State.report_trace, State.emit_trace, hrun.trace], hsends⟩
  · exact ⟨[], (List.append_nil _).symm, hnil⟩

/-! ### Commands of a cursor-set -/

/-- A byte that the wire table reads as a command of a cursor-set: column low, column high of a column below
192, or page (30_encoding.md R82, R84), under the default codes. -/
def IsCursorCommand (b : Byte) : Prop :=
  ∃ v : Byte,
    decode RegCode.standard Config.mapMask (.cmd8 b) = .ok (.wireColl v) ∨
    (decode RegCode.standard Config.mapMask (.cmd8 b) = .ok (.wireColh v) ∧ v.toNat < 12) ∨
    decode RegCode.standard Config.mapMask (.cmd8 b) = .ok (.wirePage v)

theorem decode_columnLow : ∀ n < 16, decode RegCode.standard Config.mapMask
    (.cmd8 (RegCode.standard.coll ||| BitVec.ofNat 8 n)) = .ok (.wireColl (BitVec.ofNat 8 n)) := by
  decide

theorem decode_columnHigh : ∀ n < 16, decode RegCode.standard Config.mapMask
    (.cmd8 (RegCode.standard.colh ||| BitVec.ofNat 8 n)) = .ok (.wireColh (BitVec.ofNat 8 n)) := by
  decide

theorem decode_page : ∀ n < 8, decode RegCode.standard Config.mapMask
    (.cmd8 (RegCode.standard.page ||| BitVec.ofNat 8 n)) = .ok (.wirePage (BitVec.ofNat 8 n)) := by
  decide

/-- A cursor-set on the surface sends cursor commands: the high nibble of a column below 192 is below 12. -/
theorem isCursorCommand_of_cursorSet {c p : Nat} (hc : c < 192) (hp : p < 8) :
    ∀ b ∈ commandBytes (cursorSet RegCode.standard c p), IsCursorCommand b := by
  have hhigh : c / 16 % 16 < 12 := by omega
  rw [commandBytes_cursorSet]
  simp only [List.forall_mem_cons]
  refine ⟨⟨_, .inl (decode_columnLow _ (by omega))⟩,
    ⟨_, .inr (.inl ⟨decode_columnHigh _ (by omega), ?_⟩)⟩, ⟨_, .inr (.inr (decode_page p hp))⟩, by simp⟩
  rw [BitVec.toNat_ofNat]
  omega

/-! ### Bodies and transactions -/

/-- The command bytes of some events are all cursor commands. -/
def CursorEvents (events : List BusEvent) : Prop := ∀ b ∈ commandBytes events, IsCursorCommand b

/-- A framed body whose command bytes are all cursor commands. -/
structure CursorBody (body : List BusEvent) : Prop where
  framed   : FramedBody body
  commands : CursorEvents body

theorem cursorEvents_nil : CursorEvents [] := List.forall_mem_nil _

theorem cursorBody_nil : CursorBody [] := ⟨.nil, cursorEvents_nil⟩

theorem CursorBody.append {xs ys : List BusEvent} (hx : CursorBody xs) (hy : CursorBody ys) :
    CursorBody (xs ++ ys) where
  framed := hx.framed.append hy.framed
  commands := by
    rw [CursorEvents, hx.framed.commandBytes_append, List.forall_mem_append]
    exact ⟨hx.commands, hy.commands⟩

theorem cursorBody_dataBytes (bs : List Byte) : CursorBody (dataBytes bs) where
  framed := framedBody_dataBytes bs
  commands := by
    rw [CursorEvents, commandBytes_dataBytes]
    exact List.forall_mem_nil _

theorem CursorBody.txn {body : List BusEvent} (h : CursorBody body) : CursorEvents (txn body) := by
  by_cases hne : body = []
  · rw [hne, txn_nil]
    exact cursorEvents_nil
  · rw [txn_of_ne_nil hne, CursorEvents, h.framed.commandBytes_txn]
    exact h.commands

/-! ### The pieces of the requests -/

section Pieces

variable {rc : RegCode} (hrc : rc = RegCode.standard)
include hrc

theorem cursorBody_cursorSet {c p : Nat} (hc : c < 192) (hp : p < 8) : CursorBody (cursorSet rc c p) where
  framed := framedBody_cursorSet rc c p
  commands := by
    rw [hrc]
    exact isCursorCommand_of_cursorSet hc hp

theorem cursorBody_clearPages :
    ∀ ps : List Nat, (∀ p ∈ ps, p < 8) → CursorBody (ps.flatMap (clearPage rc))
  | [], _ => cursorBody_nil
  | p :: ps, h => by
    obtain ⟨hp, hps⟩ := List.forall_mem_cons.mp h
    exact ((cursorBody_cursorSet hrc (by decide) hp).append (cursorBody_dataBytes _)).append
      (cursorBody_clearPages ps hps)

theorem cursorBody_clearBody : CursorBody (clearBody rc) :=
  cursorBody_clearPages hrc _ fun _ => List.mem_range.mp

/-- The state machine drops a reposition off the surface (41_text.md R156). -/
theorem cursorBody_reposition (c p : Nat) : CursorBody (reposition rc c p) := by
  unfold reposition
  split
  · rename_i h
    obtain ⟨hc, hp⟩ := onSurface_iff.mp h
    exact cursorBody_cursorSet hrc hc hp
  · exact cursorBody_nil

theorem cursorBody_render1x (g : List Byte) {c p : Nat} (hc : c < 192) (hp : p < 8) :
    CursorBody (render1x rc g c p) :=
  ((cursorBody_cursorSet hrc hc hp).append (cursorBody_dataBytes _)).append (cursorBody_dataBytes _)

/-- The bottom half is clipped on the last page (41_text.md R168). -/
theorem cursorBody_bottomHalf (buf : StretchBuffer) {c p : Nat} (hc : c < 192) :
    CursorBody (bottomHalf rc buf c p) := by
  unfold bottomHalf
  split
  · rename_i hp
    exact (cursorBody_cursorSet hrc hc hp).append (cursorBody_dataBytes _)
  · exact cursorBody_nil

theorem cursorBody_render2x (aa : BitVec 1) (g : List Byte) {c p : Nat} (hc : c < 192) (hp : p < 8) :
    CursorBody (render2x rc aa g c p) :=
  ((cursorBody_cursorSet hrc hc hp).append (cursorBody_dataBytes _)).append (cursorBody_bottomHalf hrc _ hc)

end Pieces

/-! ### Characters -/

/-- The wrap leaves a column on the display (41_text.md R161, R162). -/
theorem wrap_col_lt (s : State) : (wrap s).1.col.toNat < 192 := by
  obtain hc | hc := Nat.lt_or_ge s.col.toNat 192
  · rw [wrap_none hc]
    exact hc
  · obtain hr | hr := Nat.lt_or_ge (s.row.toNat + s.scale.toNat) 8
    · simp [wrap_down hc hr]
    · simp [wrap_clear hc hr]

theorem wrap_params (s : State) : (wrap s).1.params = s.params := by
  obtain ⟨x, y, hw, -⟩ := wrap_spec s
  rw [hw, State.setCursor_params]

section Characters

variable {s : State} (hrc : s.params.regcode = RegCode.standard)
include hrc

theorem cursorBody_wrap : CursorBody (wrap s).2 := by
  unfold wrap
  split
  · split
    · exact (cursorBody_clearBody hrc).append (cursorBody_reposition hrc 0 0)
    · exact cursorBody_reposition hrc 0 _
  · exact cursorBody_nil

theorem cursorBody_render {c : Byte} {events : List BusEvent} (hcol : s.col.toNat < 192)
    (hrow : s.row.toNat < 8) (h : render c s = some events) : CursorBody events := by
  obtain ⟨g, -, rfl⟩ := render_some h
  split
  · exact cursorBody_render1x hrc g hcol hrow
  · exact cursorBody_render2x hrc s.aa g hcol hrow

theorem putLf_sends : (putLf s).Sends CursorEvents := by
  unfold putLf
  split
  · exact ((cursorBody_clearBody hrc).append (cursorBody_reposition hrc 0 0)).txn
  · exact (cursorBody_reposition hrc _ _).txn

theorem putTab_sends : (putTab s).Sends CursorEvents := by
  unfold putTab
  dsimp only
  split
  · trivial
  · exact (cursorBody_reposition hrc _ _).txn

theorem putPrintable_sends (c : Byte) (hrow : s.row.toNat < 8) : (putPrintable c s).Sends CursorEvents := by
  unfold putPrintable
  split
  · trivial
  · split
    · trivial
    · rename_i glyph hglyph
      have hrc' : (wrap s).1.params.regcode = RegCode.standard := by rw [wrap_params, hrc]
      have hrow' : (wrap s).1.row.toNat < 8 := (wrap_cursorMove s).row_lt hrow
      exact ((cursorBody_wrap hrc).append (cursorBody_render hrc' (wrap_col_lt s) hrow' hglyph)).txn

theorem putChar_sends (c : Byte) (hrow : s.row.toNat < 8) : (putChar c s).Sends CursorEvents := by
  unfold putChar
  split
  · exact cursorEvents_nil
  · exact putLf_sends hrc
  · exact putTab_sends hrc
  · exact (cursorBody_reposition hrc _ _).txn
  · exact putPrintable_sends hrc c hrow
  · exact cursorEvents_nil

/-! ### Requests -/

theorem ruleSetcur_sends (col page : Byte) : (ruleSetcur col page s).Sends CursorEvents := by
  unfold ruleSetcur
  split
  · rename_i h
    obtain ⟨hcol, hpage⟩ := onSurface_iff.mp h
    exact (cursorBody_cursorSet hrc hcol hpage).txn
  · trivial

theorem ruleClear_sends : (ruleClear s).Sends CursorEvents := (cursorBody_clearBody hrc).txn

theorem rulePutc_sends (code : Byte) (hrow : s.row.toNat < 8) : (rulePutc code s).Sends CursorEvents := by
  unfold rulePutc
  split
  · trivial
  · exact putChar_sends hrc code hrow

/-- PUTCAT has checked its own page (41_text.md R171), whatever the cursor was. -/
theorem rulePutcat_sends (code col row : Byte) : (rulePutcat code col row s).Sends CursorEvents := by
  unfold rulePutcat
  split
  · rename_i h
    split
    · trivial
    · exact putChar_sends (s := s.setCursor (col.zeroExtend 16) row) hrc code (onSurface_iff.mp h).2
  · trivial

end Characters

/-- Settles O20: each of the four requests appends the events of its rule. -/
theorem cursorCommandsStayOnTheSurface : Obligations.CursorCommandsStayOnTheSurface := by
  intro i s t hs hrc hi h
  obtain ⟨c, p, rfl⟩ | rfl | ⟨c, rfl⟩ | ⟨c, x, y, rfl⟩ := hi
  · exact execute_appends (ruleSetcur_spec c p s) (ruleSetcur_sends hrc c p) cursorEvents_nil h
  · exact execute_appends (w := requestWord 0x0D 0 0 0) (ruleClear_spec s) (ruleClear_sends hrc)
      cursorEvents_nil h
  · exact execute_appends (rulePutc_spec c s) (rulePutc_sends hrc c hs.row) cursorEvents_nil h
  · exact execute_appends (rulePutcat_spec c x y s) (rulePutcat_sends hrc c x y) cursorEvents_nil h

end Sys2Proof.Machine
end

section
/-! The decoder of request words (30_encoding.md R74 to R77): the rows of the opcode map have different `OP`s and
fix the whole of their own, so a word is decoded by the one row with its `OP`, or by none. -/

namespace Sys2Proof

/-- A search through entries no two of which pass the test finds the entry that does. -/
theorem find?_eq_some_of_pairwise {α : Type} {p : α → Bool} {l : List α} {a : α}
    (hl : l.Pairwise fun x y => p x = true → ¬ p y = true) (ha : a ∈ l) (hp : p a = true) :
    l.find? p = some a := by
  induction l with
  | nil => exact absurd ha List.not_mem_nil
  | cons x xs ih =>
    obtain ⟨hx, hxs⟩ := List.pairwise_cons.mp hl
    obtain rfl | ha := List.mem_cons.mp ha
    · exact List.find?_cons_of_pos hp
    · rw [List.find?_cons_of_neg (fun hpx => hx a ha hpx hp), ih hxs ha]

/-! ### The row of a word -/

theorem requestTable_ops_distinct : requestTable.Pairwise fun a b => a.op ≠ b.op := by decide

theorem requestTable_fixes_op :
    ∀ r ∈ requestTable, fieldOp r.mask = BitVec.allOnes 8 ∧ fieldOp r.pattern = r.op := by decide

/-- R74: a word that matches a row has the row's `OP`. -/
theorem op_eq_of_match {r : RequestRow} {w : Word32} (hr : r ∈ requestTable)
    (hm : w &&& r.mask = r.pattern) : r.op = fieldOp w := by
  obtain ⟨hmask, hpattern⟩ := requestTable_fixes_op r hr
  calc r.op
      = fieldOp (w &&& r.mask) := by rw [hm, hpattern]
    _ = fieldOp w &&& fieldOp r.mask := BitVec.extractLsb'_and
    _ = fieldOp w := by rw [hmask, BitVec.and_allOnes]

/-- A word with the `OP` of a row is decoded by that row. -/
theorem decodeRequest_of_op {r : RequestRow} {w : Word32} (hr : r ∈ requestTable) (hop : r.op = fieldOp w) :
    decodeRequest w = if w &&& r.mask ≠ r.pattern then .error .reservedField else .ok (r.build w) := by
  have hfind : requestTable.find? (fun r => r.op == fieldOp w) = some r := by
    refine find?_eq_some_of_pairwise (requestTable_ops_distinct.imp fun hne ha hb => hne ?_) hr (by simp [hop])
    rw [beq_iff_eq.mp ha, beq_iff_eq.mp hb]
  simp only [decodeRequest, hfind]

theorem decodeRequest_of_match {r : RequestRow} {w : Word32} (hr : r ∈ requestTable)
    (hm : w &&& r.mask = r.pattern) : decodeRequest w = .ok (r.build w) := by
  rw [decodeRequest_of_op hr (op_eq_of_match hr hm), if_neg (not_not_intro hm)]

theorem decodeRequest_of_mismatch {r : RequestRow} {w : Word32} (hr : r ∈ requestTable)
    (hop : r.op = fieldOp w) (hm : w &&& r.mask ≠ r.pattern) : decodeRequest w = .error .reservedField := by
  rw [decodeRequest_of_op hr hop, if_pos hm]

theorem decodeRequest_of_undefined_op {w : Word32} (h : ∀ r ∈ requestTable, r.op ≠ fieldOp w) :
    decodeRequest w = .error .illegalOp := by
  have hfind : requestTable.find? (fun r => r.op == fieldOp w) = none :=
    List.find?_eq_none.mpr fun r hr => by simpa using h r hr
  simp only [decodeRequest, hfind]

/-- The inversion of the request decoder (R75, R76, R77). -/
theorem decodeRequest_cases (w : Word32) :
    (∃ r ∈ requestTable, w &&& r.mask = r.pattern ∧ decodeRequest w = .ok (r.build w)) ∨
    decodeRequest w = .error .reservedField ∨ decodeRequest w = .error .illegalOp := by
  by_cases hdefined : ∃ r ∈ requestTable, r.op = fieldOp w
  · obtain ⟨r, hr, hop⟩ := hdefined
    by_cases hm : w &&& r.mask = r.pattern
    · exact .inl ⟨r, hr, hm, decodeRequest_of_match hr hm⟩
    · exact .inr (.inl (decodeRequest_of_mismatch hr hop hm))
  · exact .inr (.inr (decodeRequest_of_undefined_op fun r hr hop => hdefined ⟨r, hr, hop⟩))

/-! ### Must-be-zero fields -/

/-- A word that matches a row is zero in the low bits that the row's mask holds and its pattern has at zero. -/
theorem low_bits_of_match {r : RequestRow} {w : Word32} {k : Nat} (hmask : r.mask.toNat % 2 ^ k = 2 ^ k - 1)
    (hpattern : r.pattern.toNat % 2 ^ k = 0) (hm : w &&& r.mask = r.pattern) : w.toNat % 2 ^ k = 0 := by
  have hlow : (w &&& r.mask).toNat % 2 ^ k = w.toNat % 2 ^ k := by
    rw [BitVec.toNat_and, Nat.and_mod_two_pow, hmask, Nat.and_two_pow_sub_one_eq_mod, Nat.mod_mod]
  rw [← hlow, hm, hpattern]

/-- Where the rows of some `OP`s hold the low `k` bits at zero, a word with such an `OP` and another value
there takes the fault of R76. -/
theorem decodeRequest_of_low_bits {w : Word32} {k : Nat} {ops : List Nat}
    (hrows : ∀ op ∈ ops, ∃ r ∈ requestTable, r.op.toNat = op ∧
      r.mask.toNat % 2 ^ k = 2 ^ k - 1 ∧ r.pattern.toNat % 2 ^ k = 0)
    (hop : w.toNat / 2 ^ 24 ∈ ops) (hw : w.toNat % 2 ^ k ≠ 0) : decodeRequest w = .error .reservedField := by
  obtain ⟨r, hr, hrop, hmask, hpattern⟩ := hrows _ hop
  have hop : r.op = fieldOp w := BitVec.eq_of_toNat_eq (by rw [hrop, fieldOp_toNat])
  exact decodeRequest_of_mismatch hr hop fun hm => hw (low_bits_of_match hmask hpattern hm)

/-- R73 and R76: the must-be-zero fields of the request table. -/
theorem decodeRequest_of_reservedFieldSet {w : Word32} (h : Machine.reservedFieldSet w) :
    decodeRequest w = .error .reservedField := by
  obtain ⟨hop, hw⟩ | ⟨hop, hw⟩ | ⟨hop, hw⟩ := h
  · exact decodeRequest_of_low_bits (by decide) hop hw
  · exact decodeRequest_of_low_bits (by decide) hop hw
  · exact decodeRequest_of_low_bits (by decide) hop hw

/-- R75: the `OP`s of the request table lie from 0x01 to 0x12. -/
theorem decodeRequest_of_op_outside {w : Word32} (h : w.toNat / 2 ^ 24 = 0 ∨ 0x13 ≤ w.toNat / 2 ^ 24) :
    decodeRequest w = .error .illegalOp := by
  have hrange : ∀ r ∈ requestTable, 0 < r.op.toNat ∧ r.op.toNat < 0x13 := by decide
  refine decodeRequest_of_undefined_op fun r hr hop => ?_
  obtain ⟨hpos, hlt⟩ := hrange r hr
  rw [hop, fieldOp_toNat] at hpos hlt
  omega

end Sys2Proof
end

section
/-! Encoding what a request word decodes to (30_encoding.md R73, R74): a word that matches a row has zeros where
its row asks for them and operands everywhere else, so the encoder builds it back. -/

namespace Sys2Proof

theorem requestWord_inj {op a b c op' a' b' c' : Byte} (h : requestWord op a b c = requestWord op' a' b' c') :
    op = op' ∧ a = a' ∧ b = b' ∧ c = c' := by
  refine ⟨?_, ?_, ?_, ?_⟩
  · simpa using congrArg fieldOp h
  · simpa using congrArg fieldA h
  · simpa using congrArg fieldB h
  · simpa using congrArg fieldC h

/-- Where a word matches a mask and a pattern, each of its fields matches their bytes there. -/
theorem fields_of_match {w : Word32} {mo ma mb mc op a b c : Byte}
    (h : w &&& requestWord mo ma mb mc = requestWord op a b c) :
    fieldOp w &&& mo = op ∧ fieldA w &&& ma = a ∧ fieldB w &&& mb = b ∧ fieldC w &&& mc = c := by
  rw [← requestWord_fields w, requestWord_and] at h
  exact requestWord_inj h

theorem byte_and_ff (x : Byte) : x &&& 0xFF = x := BitVec.and_allOnes

/-! A word that matches a row is built from the row's `OP`, its operands, and zeros. -/

theorem requestWord_of_match_three {w : Word32} {op : Byte}
    (h : w &&& requestWord 0xFF 0 0 0 = requestWord op 0 0 0) :
    requestWord op (fieldA w) (fieldB w) (fieldC w) = w := by
  have hw := requestWord_fields w
  obtain ⟨hop, -, -, -⟩ := fields_of_match h
  rw [byte_and_ff] at hop
  rwa [hop] at hw

theorem requestWord_of_match_two {w : Word32} {op : Byte}
    (h : w &&& requestWord 0xFF 0 0 0xFF = requestWord op 0 0 0) :
    requestWord op (fieldA w) (fieldB w) 0 = w := by
  have hw := requestWord_fields w
  obtain ⟨hop, -, -, hc⟩ := fields_of_match h
  rw [byte_and_ff] at hop hc
  rwa [hop, hc] at hw

theorem requestWord_of_match_one {w : Word32} {op : Byte}
    (h : w &&& requestWord 0xFF 0 0xFF 0xFF = requestWord op 0 0 0) :
    requestWord op (fieldA w) 0 0 = w := by
  have hw := requestWord_fields w
  obtain ⟨hop, -, hb, hc⟩ := fields_of_match h
  rw [byte_and_ff] at hop hb hc
  rwa [hop, hb, hc] at hw

theorem requestWord_of_match_none {w : Word32} {op : Byte}
    (h : w &&& requestWord 0xFF 0xFF 0xFF 0xFF = requestWord op 0 0 0) : requestWord op 0 0 0 = w := by
  have hw := requestWord_fields w
  obtain ⟨hop, ha, hb, hc⟩ := fields_of_match h
  rw [byte_and_ff] at hop ha hb hc
  rwa [hop, ha, hb, hc] at hw

theorem setfontWord_fieldFbase (w : Word32) :
    setfontWord (fieldFbase w) = requestWord 0x0E (fieldA w) (fieldB w) 0 := by
  rw [fieldFbase_eq]
  simp only [setfontWord, requestWord, BitVec.append_assoc, BitVec.cast_eq]

theorem setfontWord_of_match {w : Word32} (h : w &&& requestWord 0xFF 0 0 0xFF = requestWord 0x0E 0 0 0) :
    setfontWord (fieldFbase w) = w :=
  (setfontWord_fieldFbase w).trans (requestWord_of_match_two h)

/-- The encoder builds back every word that matches the row, and the instruction is well formed. -/
def RequestRow.BuildsBack (r : RequestRow) : Prop :=
  ∀ w, w &&& r.mask = r.pattern → encode (r.build w) = .req32 w ∧ (r.build w).wellFormed = true

theorem requestTable_buildsBack : ∀ r ∈ requestTable, r.BuildsBack := by
  simp only [requestTable, List.forall_mem_cons]
  exact
    ⟨fun w h => ⟨congrArg PortWord.req32 (requestWord_of_match_two h), rfl⟩,
      fun w h => ⟨congrArg PortWord.req32 (requestWord_of_match_two h), rfl⟩,
      fun w h => ⟨congrArg PortWord.req32 (requestWord_of_match_one h), rfl⟩,
      fun w h => ⟨congrArg PortWord.req32 (requestWord_of_match_one h), rfl⟩,
      fun w h => ⟨congrArg PortWord.req32 (requestWord_of_match_one h), rfl⟩,
      fun w h => ⟨congrArg PortWord.req32 (requestWord_of_match_one h), rfl⟩,
      fun w h => ⟨congrArg PortWord.req32 (requestWord_of_match_one h), rfl⟩,
      fun w h => ⟨congrArg PortWord.req32 (requestWord_of_match_one h), rfl⟩,
      fun w h => ⟨congrArg PortWord.req32 (requestWord_of_match_none h), rfl⟩,
      fun w h => ⟨congrArg PortWord.req32 (requestWord_of_match_none h), rfl⟩,
      fun w h => ⟨congrArg PortWord.req32 (requestWord_of_match_none h), rfl⟩,
      fun w h => ⟨congrArg PortWord.req32 (requestWord_of_match_none h), rfl⟩,
      fun w h => ⟨congrArg PortWord.req32 (requestWord_of_match_none h), rfl⟩,
      fun w h => ⟨congrArg PortWord.req32 (setfontWord_of_match h), rfl⟩,
      fun w h => ⟨congrArg PortWord.req32 (requestWord_of_match_one h), rfl⟩,
      fun w h => ⟨congrArg PortWord.req32 (requestWord_of_match_one h), rfl⟩,
      fun w h => ⟨congrArg PortWord.req32 (requestWord_of_match_one h), rfl⟩,
      fun w h => ⟨congrArg PortWord.req32 (requestWord_of_match_three h), rfl⟩,
      List.forall_mem_nil _⟩

/-- Settles O2: the row that decodes the word builds it back. -/
theorem encodeOfDecodedRequestIsTheWord : Obligations.EncodeOfDecodedRequestIsTheWord := by
  intro rc m w i hd
  have hd : decodeRequest w = .ok i := hd
  obtain ⟨r, hr, hm, hok⟩ | herr | herr := decodeRequest_cases w
  · rw [hok] at hd
    cases hd
    exact requestTable_buildsBack r hr w hm
  · rw [herr] at hd
    cases hd
  · rw [herr] at hd
    cases hd

end Sys2Proof
end

section
/-! Decoding what the encoder builds (30_encoding.md R74, R84): a request's word matches its row, and the ten rows
of the wire table have no byte in common under the default codes. -/

namespace Sys2Proof

open Laws

/-! ### Requests -/

/-- A word in row `n` of the request table is decoded by that row. -/
theorem decodeRequest_of_row {n : Nat} {r : RequestRow} {w : Word32} {i : Instr} (hr : requestTable[n]? = some r)
    (hm : w &&& r.mask = r.pattern) (hb : r.build w = i) : decodeRequest w = .ok i := by
  rw [decodeRequest_of_match (List.mem_of_getElem? hr) hm, hb]

theorem fieldFbase_setfontWord (b : BitVec 16) : fieldFbase (setfontWord b) = b := by
  apply BitVec.eq_of_getLsbD_eq
  intro i hi
  simp only [fieldFbase, setfontWord, BitVec.getLsbD_extractLsb', BitVec.getLsbD_append, hi, decide_true,
    Bool.true_and, show ¬ 8 + i < 8 by omega, if_false, if_true, show 8 + i - 8 = i by omega]

/-! ### Wire commands -/

theorem wireTable_disjoint :
    (wireTable RegCode.standard Config.mapMask).Pairwise fun a b =>
      a.base &&& ~~~b.field ≠ b.base &&& ~~~a.field := by decide

/-- R81: no base code has a bit in its own value field. -/
theorem wireTable_base_outside_field :
    ∀ r ∈ wireTable RegCode.standard Config.mapMask, r.base &&& r.field = 0#8 := by decide

theorem and_not_eq_self {x f : Byte} (h : x &&& f = 0#8) : x &&& ~~~f = x := by
  calc x &&& ~~~f
      = (x &&& f) ||| (x &&& ~~~f) := by rw [h, BitVec.zero_or]
    _ = x &&& (f ||| ~~~f) := BitVec.and_or_distrib_left.symm
    _ = x := by rw [BitVec.or_not_self, BitVec.and_allOnes]

theorem fitsField_iff {field v : Byte} : fitsField field v = true ↔ v &&& ~~~field = 0#8 := beq_iff_eq

theorem and_of_fitsField {field v : Byte} (h : fitsField field v = true) : v &&& field = v := by
  have hv := and_not_eq_self (fitsField_iff.mp h)
  rwa [BitVec.not_not] at hv

theorem fitsField_and (field b : Byte) : fitsField field (b &&& field) = true := by
  rw [fitsField_iff, BitVec.and_assoc, BitVec.and_not_self]
  exact BitVec.and_zero

/-- A byte is its code OR its value, whatever the field. -/
theorem code_or_value (b field : Byte) : b &&& ~~~field ||| b &&& field = b := by
  rw [← BitVec.and_or_distrib_left, BitVec.or_comm, BitVec.or_not_self, BitVec.and_allOnes]

/-- A byte is decoded by the row whose code it carries (R84): it can carry no other. -/
theorem decodeWire_of_code {r : WireRow} {b : Byte} (hr : r ∈ wireTable RegCode.standard Config.mapMask)
    (hb : b &&& ~~~r.field = r.base) :
    decodeWire RegCode.standard Config.mapMask b = .ok (r.build (b &&& r.field)) := by
  have hfind : (wireTable RegCode.standard Config.mapMask).find? (fun r => b &&& ~~~r.field == r.base) =
      some r := by
    refine find?_eq_some_of_pairwise (wireTable_disjoint.imp fun {x y} hne hx hy => hne ?_) hr (by simp [hb])
    rw [← beq_iff_eq.mp hx, ← beq_iff_eq.mp hy, BitVec.and_assoc, BitVec.and_assoc,
      BitVec.and_comm (~~~x.field)]
  simp only [decodeWire, hfind]

/-- The byte `REG | VAL` of row `n`, with `VAL` in the row's field, is decoded to the row's command with `VAL`
(R80, R81). -/
theorem decodeWire_of_row {n : Nat} {r : WireRow} {v b : Byte} {i : Instr}
    (hr : (wireTable RegCode.standard Config.mapMask)[n]? = some r) (hv : fitsField r.field v = true)
    (hb : r.base ||| v = b) (hi : r.build v = i) :
    decodeWire RegCode.standard Config.mapMask b = .ok i := by
  have hr := List.mem_of_getElem? hr
  have hbase := wireTable_base_outside_field r hr
  have hcode : (r.base ||| v) &&& ~~~r.field = r.base := by
    rw [BitVec.and_or_distrib_right, and_not_eq_self hbase, fitsField_iff.mp hv, BitVec.or_zero]
  have hvalue : (r.base ||| v) &&& r.field = v := by
    rw [BitVec.and_or_distrib_right, hbase, and_of_fitsField hv, BitVec.zero_or]
  rw [← hb, ← hi, decodeWire_of_code hr hcode, hvalue]

/-! ### Every instruction -/

/-- Settles O1: a request's word lies in its row and the fields give the operands back; a wire command's byte
carries its row's code and value. -/
theorem decodeOfEncodeIsTheInstruction : Obligations.DecodeOfEncodeIsTheInstruction := by
  intro i hwf
  cases i with
  | sendcmd reg val =>
    exact decodeRequest_of_row (n := 0) rfl (EncodesInRow.sendcmd reg val rfl)
      (congrArg₂ Instr.sendcmd (fieldA_requestWord ..) (fieldB_requestWord ..))
  | setcur col page =>
    exact decodeRequest_of_row (n := 1) rfl (EncodesInRow.setcur col page rfl)
      (congrArg₂ Instr.setcur (fieldA_requestWord ..) (fieldB_requestWord ..))
  | contrast v =>
    exact decodeRequest_of_row (n := 2) rfl (EncodesInRow.contrast v rfl)
      (congrArg Instr.contrast (fieldA_requestWord ..))
  | scroll line =>
    exact decodeRequest_of_row (n := 3) rfl (EncodesInRow.scroll line rfl)
      (congrArg Instr.scroll (fieldA_requestWord ..))
  | rotate v =>
    exact decodeRequest_of_row (n := 4) rfl (EncodesInRow.rotate v rfl)
      (congrArg Instr.rotate (fieldA_requestWord ..))
  | invert f =>
    exact decodeRequest_of_row (n := 5) rfl (EncodesInRow.invert f rfl)
      (congrArg Instr.invert (fieldA_requestWord ..))
  | allon f =>
    exact decodeRequest_of_row (n := 6) rfl (EncodesInRow.allon f rfl)
      (congrArg Instr.allon (fieldA_requestWord ..))
  | dispen f =>
    exact decodeRequest_of_row (n := 7) rfl (EncodesInRow.dispen f rfl)
      (congrArg Instr.dispen (fieldA_requestWord ..))
  | sysrst => exact decodeRequest_of_row (n := 8) rfl (EncodesInRow.sysrst rfl) rfl
  | hwrst => exact decodeRequest_of_row (n := 9) rfl (EncodesInRow.hwrst rfl) rfl
  | init => exact decodeRequest_of_row (n := 10) rfl (EncodesInRow.init rfl) rfl
  | pwrdn => exact decodeRequest_of_row (n := 11) rfl (EncodesInRow.pwrdn rfl) rfl
  | clear => exact decodeRequest_of_row (n := 12) rfl (EncodesInRow.clear rfl) rfl
  | setfont b =>
    exact decodeRequest_of_row (n := 13) rfl (EncodesInRow.setfont b rfl)
      (congrArg Instr.setfont (fieldFbase_setfontWord b))
  | setscale sc =>
    exact decodeRequest_of_row (n := 14) rfl (EncodesInRow.setscale sc rfl)
      (congrArg Instr.setscale (fieldA_requestWord ..))
  | setaa f =>
    exact decodeRequest_of_row (n := 15) rfl (EncodesInRow.setaa f rfl)
      (congrArg Instr.setaa (fieldA_requestWord ..))
  | putc code =>
    exact decodeRequest_of_row (n := 16) rfl (EncodesInRow.putc code rfl)
      (congrArg Instr.putc (fieldA_requestWord ..))
  | putcat code col row =>
    refine decodeRequest_of_row (n := 17) rfl (EncodesInRow.putcat code col row rfl) ?_
    exact congr (congrArg₂ Instr.putcat (fieldA_requestWord ..) (fieldB_requestWord ..)) (fieldC_requestWord ..)
  | wireColl v => exact decodeWire_of_row (n := 0) rfl hwf rfl rfl
  | wireColh v => exact decodeWire_of_row (n := 1) rfl hwf rfl rfl
  | wirePage v => exact decodeWire_of_row (n := 2) rfl hwf rfl rfl
  | wireScroll v => exact decodeWire_of_row (n := 3) rfl hwf rfl rfl
  | wireMap v => exact decodeWire_of_row (n := 4) rfl hwf rfl rfl
  | wireVbias => exact decodeWire_of_row (n := 5) (v := 0) rfl rfl rfl rfl
  | wireAllon v => exact decodeWire_of_row (n := 6) rfl hwf rfl rfl
  | wireInv v => exact decodeWire_of_row (n := 7) rfl hwf rfl rfl
  | wireDispen v => exact decodeWire_of_row (n := 8) rfl hwf rfl rfl
  | wireSysrst => exact decodeWire_of_row (n := 9) (v := 0) rfl rfl rfl rfl
  | wireVbiasValue v => rfl

/-! ### The examples of R94 -/

/-- A table word that an instruction encodes to is decoded to that instruction. -/
theorem decodeTableWord_of_encode {w : Nat} {i : Instr} (hwf : i.wellFormed = true)
    (he : encode i = .req32 (BitVec.ofNat 32 w)) : decodeTableWord 32 w = some i := by
  have hport : tablePortWord 32 w = encode i := he.symm
  rw [decodeTableWord, hport, decodeOfEncodeIsTheInstruction i hwf]
  rfl

/-- Settles O3: the examples are encodings, which decode to what they encode. -/
theorem encodingExamplesDecode : Obligations.EncodingExamplesDecode :=
  ⟨decodeTableWord_of_encode rfl rfl, decodeTableWord_of_encode rfl rfl, decodeTableWord_of_encode rfl rfl,
    decodeTableWord_of_encode rfl rfl, decodeTableWord_of_encode rfl rfl, rfl, rfl, rfl, rfl, rfl⟩

end Sys2Proof
end

section
/-! Decode faults and totality (30_encoding.md R75 to R77, 60_exceptions.md R231): a request word that does not
decode takes its fault like any other, and whatever decodes is executed to a next state. -/

namespace Sys2Proof.Machine

/-! ### Decode faults -/

/-- The gate of R232 is open and the decoder answers a fault: serving the word takes it. -/
theorem serveWord_of_decode_error {s : State} {p : PortWord} {e : DecodeError} {code : FaultCode}
    (hf : s.fault = 0) (hd : decode s.params.regcode s.params.mapMask p = .error e)
    (he : faultOfDecode e = some code) : serveWord p s = .next (s.takeFault code (wordOfPort p)) := by
  rw [serveWord, if_neg (not_not_intro hf), hd]
  simp only [he]

/-- A step at a request word with a decode fault, seen from outside. -/
theorem step_of_decodeRequest_error {s : State} {w : Word32} {rest : List HostInput} {e : DecodeError}
    {code : FaultCode} (hf : s.fault = 0) (hi : s.inputs = .word (.req32 w) :: rest)
    (hd : decodeRequest w = .error e) (he : faultOfDecode e = some code) :
    step s = .next (State.afterFault { s with inputs := rest } code.number code w) := by
  calc step s
      = serveWord (.req32 w) (s.setInputs rest) := step_word hi
    _ = .next ((s.setInputs rest).takeFault code w) := serveWord_of_decode_error hf hd he
    _ = .next (State.afterFault { s with inputs := rest } code.number code w) := by
      rw [takeFault_eq_afterFault, State.setInputs]

/-- Settles O4: no row of the request table has such an `OP`. -/
theorem illegalOpcodeFaults : Obligations.IllegalOpcodeFaults := by
  intro s w rest hf hi hop
  exact step_of_decodeRequest_error hf hi (decodeRequest_of_op_outside hop) rfl

/-- Settles O5: the word has the `OP` of a row and does not match it. -/
theorem reservedFieldFaults : Obligations.ReservedFieldFaults := by
  intro s w rest hf hi hset
  exact step_of_decodeRequest_error hf hi (decodeRequest_of_reservedFieldSet hset) rfl

/-! ### Totality -/

/-- Every instruction answers a next state: its rule reads no font byte that does not exist. -/
theorem exec_total (i : Instr) (s : State) : ∃ t, exec i s = .next t := by
  obtain ⟨w, r, he, hr, -⟩ := exec_eq_execute i s
  rw [he]
  by_cases hf : s.fault = 0
  · cases r with
    | done s' events => exact ⟨_, execute_done w s' events hf⟩
    | raise code => exact ⟨_, execute_raise w code hf⟩
    | unmapped => exact hr.elim
  · exact ⟨_, execute_faulted w r hf⟩

/-- A word at the port of requests, or after the Vbias register byte, is decoded or raises an architectural
fault (R77, R83). -/
theorem decode_cases {p : PortWord} (hp : ∀ b, p ≠ .cmd8 b) (rc : RegCode) (m : Byte) :
    (∃ i, decode rc m p = .ok i) ∨ ∃ e code, decode rc m p = .error e ∧ faultOfDecode e = some code := by
  cases p with
  | req32 w =>
    obtain ⟨r, -, -, hok⟩ | herr | herr := decodeRequest_cases w
    · exact .inl ⟨_, hok⟩
    · exact .inr ⟨_, .reservedField, herr, rfl⟩
    · exact .inr ⟨_, .illegalOp, herr, rfl⟩
  | cmd8 b => exact absurd rfl (hp b)
  | vbiasValue b => exact .inl ⟨_, rfl⟩

theorem serveWord_total {p : PortWord} (hp : ∀ b, p ≠ .cmd8 b) (s : State) : ∃ t, serveWord p s = .next t := by
  by_cases hf : s.fault = 0
  · obtain ⟨i, hd⟩ | ⟨e, code, hd, he⟩ := decode_cases hp s.params.regcode s.params.mapMask
    · rw [serveWord_of_decode_ok hf hd]
      exact exec_total i s
    · exact ⟨_, serveWord_of_decode_error hf hd he⟩
  · exact ⟨s.reject, if_pos hf⟩

/-- Settles O12: with nothing presented the block waits, and block reset and every word are served. -/
theorem stepNeverStops : Obligations.StepNeverStops := by
  intro s hport
  cases hi : s.inputs with
  | nil => exact ⟨s, by simp only [step, serveNext, hi]⟩
  | cons h rest =>
    cases h with
    | word p =>
      rw [step_word hi]
      refine serveWord_total (fun b hp => hport b ?_) _
      rw [hi, hp]
      rfl
    | blockReset => exact ⟨(s.setInputs rest).blockReset, by simp only [step, serveNext, hi, serve]⟩

end Sys2Proof.Machine
end

section
/-! Wire commands (30_encoding.md R80, R84): running one sends its byte `REG | VAL` under the run's codes, and under
the default codes a byte that decodes is the byte its command sends. -/

namespace Sys2Proof.Machine

/-- Settles O33: each row is the framed sending of its byte. -/
theorem wireCommandsSendOneFrame : Obligations.WireCommandsSendOneFrame := by
  intro s v hf
  have hsend (b : Byte) := sendWire_eq_afterSending b s hf
  exact ⟨hsend _, hsend _, hsend _, hsend _, hsend _, hsend _, hsend _, hsend _, hsend _, hsend _, hsend _⟩

/-- The inversion of the wire decoder: the row whose code the byte carries. -/
theorem decodeWire_ok {rc : RegCode} {m b : Byte} {i : Instr} (h : decodeWire rc m b = .ok i) :
    ∃ r ∈ wireTable rc m, b &&& ~~~r.field = r.base ∧ r.build (b &&& r.field) = i := by
  unfold decodeWire at h
  split at h
  · cases h
  · rename_i r hr
    cases h
    exact ⟨r, List.mem_of_find?_eq_some hr, by simpa using List.find?_some hr, rfl⟩

/-- The command that a row builds from a value of its field is well formed, has the code `b = REG | VAL`, and
sends that byte in a run with the default codes. -/
structure SendsByte (i : Instr) (b : Byte) : Prop where
  wellFormed : i.wellFormed = true
  encodes    : encode i = .cmd8 b
  sends      : ∀ s : State, s.params.regcode = RegCode.standard → exec i s = sendWire b s

theorem sendWire_of_regcode {s : State} (hs : s.params.regcode = RegCode.standard) (code : RegCode → Byte) :
    sendWire (code s.params.regcode) s = sendWire (code RegCode.standard) s := by rw [hs]

/-- A value that fits an empty field is 0. -/
theorem eq_zero_of_fitsField_zero {v : Byte} (h : fitsField 0x00 v = true) : v = 0 :=
  (and_of_fitsField h).symm.trans BitVec.and_zero

theorem wireTable_sendsByte : ∀ r ∈ wireTable RegCode.standard Config.mapMask,
    ∀ v, fitsField r.field v = true → SendsByte (r.build v) (r.base ||| v) := by
  simp only [wireTable, List.forall_mem_cons]
  refine
    ⟨fun v hv => ⟨hv, rfl, fun s hs => sendWire_of_regcode hs (·.coll ||| v)⟩,
      fun v hv => ⟨hv, rfl, fun s hs => sendWire_of_regcode hs (·.colh ||| v)⟩,
      fun v hv => ⟨hv, rfl, fun s hs => sendWire_of_regcode hs (·.page ||| v)⟩,
      fun v hv => ⟨hv, rfl, fun s hs => sendWire_of_regcode hs (·.scroll ||| v)⟩,
      fun v hv => ⟨hv, rfl, fun s hs => sendWire_of_regcode hs (·.map ||| v)⟩,
      fun v hv => ?vbias,
      fun v hv => ⟨hv, rfl, fun s hs => sendWire_of_regcode hs (·.allon ||| v)⟩,
      fun v hv => ⟨hv, rfl, fun s hs => sendWire_of_regcode hs (·.inv ||| v)⟩,
      fun v hv => ⟨hv, rfl, fun s hs => sendWire_of_regcode hs (·.dispen ||| v)⟩,
      fun v hv => ?sysrst,
      List.forall_mem_nil _⟩
  case vbias =>
    obtain rfl := eq_zero_of_fitsField_zero hv
    exact ⟨rfl, rfl, fun s hs => sendWire_of_regcode hs (·.vbias)⟩
  case sysrst =>
    obtain rfl := eq_zero_of_fitsField_zero hv
    exact ⟨rfl, rfl, fun s hs => sendWire_of_regcode hs (·.sysrst)⟩

/-- Settles O34: the row that decodes the byte sends its code and its value, which are the byte. -/
theorem decodedWireByteGoesOutUnchanged : Obligations.DecodedWireByteGoesOutUnchanged := by
  intro s b i hf hrc _ hd
  obtain ⟨r, hr, hcode, rfl⟩ := decodeWire_ok hd
  have hsends := wireTable_sendsByte r hr (b &&& r.field) (fitsField_and r.field b)
  rw [← hcode, code_or_value] at hsends
  refine ⟨hsends.wellFormed, hsends.encodes, ?_⟩
  rw [hsends.sends s hrc, sendWire_eq_afterSending b s hf]

end Sys2Proof.Machine
end

section
/-! The assembler (30_encoding.md R90 to R93): what the lexer makes of a blank, a mnemonic and a text without
escapes, and what the parser makes of a line that begins with a mnemonic. -/

namespace Sys2Proof.Machine

/-! ### The lexer -/

theorem lexLine_nil (fuel : Nat) : lexLine fuel [] = some [] := by rw [lexLine]

theorem lexLine_blank (fuel : Nat) (rest : List Char) : lexLine (fuel + 1) (' ' :: rest) = lexLine fuel rest :=
  if_pos (.inl rfl)

/-- A text is one token, and the line goes on after its closing quote. -/
theorem lexLine_text {rest after : List Char} {bs : List Byte} (h : textBytes rest = some (bs, after))
    (fuel : Nat) : lexLine (fuel + 1) ('"' :: rest) = (lexLine fuel after).map (Token.text bs :: ·) := by
  conv_lhs => unfold lexLine
  rw [if_neg (by decide), if_neg (by decide), if_neg (by decide), if_pos (by decide), h]

/-- The characters of a mnemonic: they all continue a word, and the first is no digit. -/
structure IsMnemonic (cs : List Char) : Prop where
  word   : ∀ c ∈ cs, isWordChar c = true
  letter : ∃ c rest, cs = c :: rest ∧ 57 < c.toNat

theorem letter_of_isWordChar {c : Char} (h : isWordChar c = true) (hdigit : 57 < c.toNat) : 65 ≤ c.toNat := by
  simp only [isWordChar, Bool.or_eq_true, Bool.and_eq_true, decide_eq_true_eq] at h
  omega

/-- A mnemonic before a character that ends it, or at the end of the line, is one name. -/
theorem lexLine_mnemonic {cs after : List Char} (hcs : IsMnemonic cs)
    (hafter : after.takeWhile isWordChar = []) (fuel : Nat) :
    lexLine (fuel + 1) (cs ++ after) = (lexLine fuel after).map (Token.name cs :: ·) := by
  have htake : (cs ++ after).takeWhile isWordChar = cs := by
    rw [List.takeWhile_append_of_pos hcs.word, hafter, List.append_nil]
  have hdrop : (cs ++ after).dropWhile isWordChar = after := by
    rw [List.dropWhile_append_of_pos hcs.word]
    simpa [hafter] using List.takeWhile_append_dropWhile (p := isWordChar) (l := after)
  obtain ⟨c, rest, rfl, hdigit⟩ := hcs.letter
  have hword : isWordChar c = true := hcs.word c List.mem_cons_self
  have hletter : 65 ≤ c.toNat := letter_of_isWordChar hword hdigit
  rw [List.cons_append] at htake hdrop ⊢
  conv_lhs => unfold lexLine
  rw [if_neg (by omega), if_neg (by omega), if_neg (by omega), if_neg (by omega), if_neg (by omega),
    if_pos hword]
  simp only [htake, hdrop]
  rw [if_neg (by omega)]
  cases lexLine fuel after <;> rfl

/-! ### Texts -/

/-- A character of a text that stands for itself: ASCII, no quote and no backslash. -/
def IsPlain (c : Char) : Prop := c.toNat < 128 ∧ c.toNat ≠ 34 ∧ c.toNat ≠ 92

/-- A text of plain characters is the bytes of its characters, up to the closing quote (R92). -/
theorem textBytes_plain (after : List Char) : ∀ cs : List Char, (∀ c ∈ cs, IsPlain c) →
    textBytes (cs ++ '"' :: after) = some (cs.map fun c => BitVec.ofNat 8 c.toNat, after)
  | [], _ => by
    unfold textBytes
    exact if_pos rfl
  | c :: cs, h => by
    obtain ⟨⟨hascii, hquote, hbackslash⟩, hcs⟩ := List.forall_mem_cons.mp h
    have hbyte : asciiByte c = some (BitVec.ofNat 8 c.toNat) := if_pos hascii
    rw [List.cons_append]
    unfold textBytes
    rw [if_neg hquote, if_neg hbackslash, hbyte, textBytes_plain after cs hcs]
    rfl

/-! ### The parser -/

/-- A line that begins with a mnemonic is what the table's entry makes of its operands. -/
theorem parseLine_of_tokens {line : List Char} {name : String} {make : List Token → Option (List Instr)}
    {ts ops : List Token} (hlex : lexLine line.length line = some (.name name.toList :: ts))
    (hname : mnemonicTable.find? (fun e => e.1.toList == name.toList) = some (name, make))
    (hops : operandList ts = some ops) : parseLine line = make ops := by
  simp only [parseLine, hlex, hname, hops]

/-- A line that is one mnemonic without operands assembles to the entry's instructions. -/
theorem assembleLine_bare {name : String} {is : List Instr} (hmn : IsMnemonic name.toList)
    (hname : mnemonicTable.find? (fun e => e.1.toList == name.toList) = some (name, noOperand is)) :
    assembleLine name.toList = some (is.map encode) := by
  have hlex : lexLine name.toList.length name.toList = some [.name name.toList] := by
    obtain ⟨c, rest, hcons, -⟩ := hmn.letter
    have h := lexLine_mnemonic (after := []) hmn rfl rest.length
    rw [List.append_nil, lexLine_nil] at h
    rw [show name.toList.length = rest.length + 1 by rw [hcons, List.length_cons], h]
    rfl
  rw [assembleLine, parseLine_of_tokens hlex hname rfl]
  rfl

/-- Settles O59: both lines are a mnemonic alone, and the table gives their requests (R93). -/
theorem homeAndNewlineExpand : Obligations.HomeAndNewlineExpand :=
  ⟨assembleLine_bare (name := "home") ⟨by simp [isWordChar], 'h', _, rfl, by decide⟩ rfl,
    assembleLine_bare (name := "newline") ⟨by simp [isWordChar], 'n', _, rfl, by decide⟩ rfl⟩

/-- The line of `string` with a plain text is two tokens: seven characters of mnemonic and blank, and the text
between its quotes. -/
theorem lexLine_string {cs : List Char} (h : ∀ c ∈ cs, IsPlain c) (fuel : Nat) :
    lexLine (fuel + 3) ("string".toList ++ ' ' :: '"' :: (cs ++ ['"'])) =
      some [.name "string".toList, .text (cs.map fun c => BitVec.ofNat 8 c.toNat)] := by
  have hmn : IsMnemonic "string".toList := ⟨by simp [isWordChar], 's', _, rfl, by decide⟩
  rw [lexLine_mnemonic hmn rfl, lexLine_blank, lexLine_text (textBytes_plain [] cs h), lexLine_nil]
  rfl

/-- The word of PUTC for a character (R73). -/
theorem encode_putc_char {c : Char} (h : c.toNat < 128) :
    encode (.putc (BitVec.ofNat 8 c.toNat)) = .req32 (wordOf 0x11 c.toNat 0 0) := by
  have hbyte : (BitVec.ofNat 8 c.toNat).toNat = c.toNat := by
    rw [BitVec.toNat_ofNat, Nat.mod_eq_of_lt (by omega)]
  have hword := requestWord_eq_wordOf 0x11 (BitVec.ofNat 8 c.toNat) 0 0
  rw [hbyte] at hword
  exact congrArg PortWord.req32 hword

/-- Settles O60: the line's tokens are the mnemonic and the text, and each of the text's bytes is one PUTC. -/
theorem stringIsOnePutcPerCharacter : Obligations.StringIsOnePutcPerCharacter := by
  intro cs hcs
  have hline : "string ".toList ++ Char.ofNat 34 :: (cs ++ [Char.ofNat 34]) =
      "string".toList ++ ' ' :: '"' :: (cs ++ ['"']) := rfl
  have hlen : ("string".toList ++ ' ' :: '"' :: (cs ++ ['"'])).length = (cs.length + 6) + 3 := by
    simp
  have hlex := lexLine_string hcs (cs.length + 6)
  rw [← hlen] at hlex
  rw [hline, assembleLine, parseLine_of_tokens (make := stringLine) hlex rfl rfl]
  simp only [stringLine, Option.map_some, List.map_map, Option.some.injEq]
  exact List.map_congr_left fun c hc => encode_putc_char (hcs c hc).1

end Sys2Proof.Machine
end

section
/-! What one step puts on the bus (40_framer.md R103, R104, R108, R124): at most one reset pulse of the run and then
at most one transaction of command frames and data bytes, whatever the host presents. -/

namespace Sys2Proof.Machine

/-! ### The traffic of a request -/

/-- The run's reset pulse, where one is asked for. -/
def pulseIf (on : Bool) (p : Params) : List BusEvent := if on then [pulse p] else []

theorem framedEvents_pulseIf (on : Bool) (p : Params) : FramedEvents (pulseIf on p) := by
  cases on with
  | false => exact framedEvents_nil
  | true => exact framedEvents_pulse p

/-- What one request may put on the bus under the parameters `p`. -/
def RequestTraffic (p : Params) (events : List BusEvent) : Prop :=
  ∃ on body, FramedBody body ∧ events = pulseIf on p ++ txn body

theorem requestTraffic_nil (p : Params) : RequestTraffic p [] := ⟨false, [], .nil, rfl⟩

theorem FramedBody.requestTraffic {body : List BusEvent} (h : FramedBody body) (p : Params) :
    RequestTraffic p (txn body) :=
  ⟨false, body, h, rfl⟩

theorem RequestTraffic.framedEvents {p : Params} {events : List BusEvent} (h : RequestTraffic p events) :
    FramedEvents events := by
  obtain ⟨on, body, hbody, rfl⟩ := h
  exact (framedEvents_pulseIf on p).append hbody.framedEvents

theorem FramedBody.resetPulse_not_mem {xs : List BusEvent} (h : FramedBody xs) (lowUs settleMs : Nat) :
    .resetPulse lowUs settleMs ∉ xs := by
  induction h with
  | nil => exact List.not_mem_nil
  | frame b _ ih => simpa [cmdFrame] using ih
  | data b _ ih => simpa using ih

theorem FramedBody.resetPulse_not_mem_txn {body : List BusEvent} (h : FramedBody body) (lowUs settleMs : Nat) :
    .resetPulse lowUs settleMs ∉ txn body := by
  by_cases hne : body = []
  · simp [hne]
  · rw [txn_of_ne_nil hne, sentTransaction]
    simpa using h.resetPulse_not_mem lowUs settleMs

/-- The one pulse of a request has the durations of the run (R108). -/
theorem RequestTraffic.resetPulse_eq {p : Params} {events : List BusEvent} (h : RequestTraffic p events)
    {lowUs settleMs : Nat} (hmem : .resetPulse lowUs settleMs ∈ events) :
    lowUs = p.resetLowUs ∧ settleMs = p.resetSettleMs := by
  obtain ⟨on, body, hbody, rfl⟩ := h
  have hpulse : .resetPulse lowUs settleMs ∈ pulseIf on p :=
    (List.mem_append.mp hmem).resolve_right (hbody.resetPulse_not_mem_txn lowUs settleMs)
  cases on with
  | false => exact absurd hpulse List.not_mem_nil
  | true => simpa [pulseIf, pulse] using hpulse

/-! ### The rules of the requests -/

/-- A test between two results that send `P` sends `P`. -/
theorem RuleResult.Sends.ite {P : List BusEvent → Prop} {c : Prop} [Decidable c] {a b : RuleResult}
    (ha : a.Sends P) (hb : b.Sends P) : (if c then a else b).Sends P := by
  split
  · exact ha
  · exact hb

theorem requestTraffic_cmdFrame (p : Params) (b : Byte) : RequestTraffic p (txn (cmdFrame b)) :=
  (framedBody_cmdFrame b).requestTraffic p

theorem requestTraffic_reposition (p : Params) (rc : RegCode) (c r : Nat) :
    RequestTraffic p (txn (reposition rc c r)) :=
  (framedBody_reposition rc c r).requestTraffic p

theorem rulePwrdn_traffic (s : State) : (rulePwrdn s).Sends (RequestTraffic s.params) :=
  ⟨s.params.pwrdnPulse, _, framedBody_cmdFrames s.params.pwrdnSeq, rfl⟩

theorem ruleSetfont_traffic (b : BitVec 16) (s : State) :
    (ruleSetfont b s).Sends (RequestTraffic s.params) := by
  refine .ite trivial ?_
  split
  · exact requestTraffic_nil s.params
  · trivial

theorem putLf_traffic (p : Params) (s : State) : (putLf s).Sends (RequestTraffic p) := by
  unfold putLf
  split
  · exact ((framedBody_clearBody _).append (framedBody_reposition ..)).requestTraffic p
  · exact requestTraffic_reposition ..

theorem putPrintable_traffic (p : Params) (c : Byte) (s : State) :
    (putPrintable c s).Sends (RequestTraffic p) := by
  unfold putPrintable
  split
  · trivial
  · split
    · trivial
    · rename_i glyph hglyph
      obtain ⟨-, -, -, hwrap⟩ := wrap_spec s
      exact (hwrap.append (framedBody_render hglyph)).requestTraffic p

theorem putChar_traffic (p : Params) (c : Byte) (s : State) : (putChar c s).Sends (RequestTraffic p) := by
  unfold putChar
  split
  · exact requestTraffic_nil p
  · exact putLf_traffic p s
  · exact .ite trivial (requestTraffic_reposition ..)
  · exact requestTraffic_reposition ..
  · exact putPrintable_traffic p c s
  · exact requestTraffic_nil p

/-! ### Every instruction, every word, every step -/

theorem sendWire_traffic (b : Byte) (s : State) :
    ∃ w r, sendWire b s = execute w s r ∧ RuleSpec s r ∧ r.Sends (RequestTraffic s.params) :=
  ⟨0, _, sendWire_eq b s, ⟨.refl s, (framedBody_cmdFrame _).framedEvents⟩, requestTraffic_cmdFrame ..⟩

/-- Every instruction is the shared execution of a rule that sends the traffic of one request. -/
theorem exec_eq_execute_traffic (i : Instr) (s : State) :
    ∃ w r, exec i s = execute w s r ∧ RuleSpec s r ∧ r.Sends (RequestTraffic s.params) := by
  have hframe := requestTraffic_cmdFrame s.params
  have hnil := requestTraffic_nil s.params
  cases i with
  | sendcmd reg val => exact ⟨_, _, rfl, ruleSendcmd_spec reg val s, .ite trivial (hframe _)⟩
  | setcur col page =>
    exact ⟨_, _, rfl, ruleSetcur_spec col page s, .ite ((framedBody_cursorSet ..).requestTraffic _) trivial⟩
  | contrast v =>
    exact ⟨requestWord 0x03 v 0 0, _, rfl, ruleContrast_spec v s,
      ((framedBody_cmdFrame _).append (framedBody_cmdFrame _)).requestTraffic _⟩
  | scroll line => exact ⟨_, _, rfl, ruleScroll_spec line s, .ite (hframe _) trivial⟩
  | rotate v => exact ⟨_, _, rfl, ruleRotate_spec v s, .ite (hframe _) trivial⟩
  | invert f => exact ⟨_, _, rfl, ruleInvert_spec f s, .ite (hframe _) trivial⟩
  | allon f => exact ⟨_, _, rfl, ruleAllon_spec f s, .ite (hframe _) trivial⟩
  | dispen f => exact ⟨_, _, rfl, ruleDispen_spec f s, .ite (hframe _) trivial⟩
  | sysrst => exact ⟨requestWord 0x09 0 0 0, _, rfl, ruleSysrst_spec s, hframe _⟩
  | hwrst => exact ⟨requestWord 0x0A 0 0 0, _, rfl, ruleHwrst_spec s, true, [], .nil, rfl⟩
  | init => exact ⟨requestWord 0x0B 0 0 0, _, rfl, ruleInit_spec s, true, _, framedBody_cmdFrames _, rfl⟩
  | pwrdn => exact ⟨requestWord 0x0C 0 0 0, _, rfl, rulePwrdn_spec s, rulePwrdn_traffic s⟩
  | clear => exact ⟨requestWord 0x0D 0 0 0, _, rfl, ruleClear_spec s, (framedBody_clearBody _).requestTraffic _⟩
  | setfont b => exact ⟨_, _, rfl, ruleSetfont_spec b s, ruleSetfont_traffic b s⟩
  | setscale sc => exact ⟨_, _, rfl, ruleSetscale_spec sc s, .ite hnil hnil⟩
  | setaa f => exact ⟨_, _, rfl, ruleSetaa_spec f s, .ite hnil trivial⟩
  | putc code => exact ⟨_, _, rfl, rulePutc_spec code s, .ite trivial (putChar_traffic _ code s)⟩
  | putcat code col row =>
    exact ⟨_, _, rfl, rulePutcat_spec code col row s,
      .ite (.ite trivial (putChar_traffic _ code _)) trivial⟩
  | wireColl v => exact sendWire_traffic _ s
  | wireColh v => exact sendWire_traffic _ s
  | wirePage v => exact sendWire_traffic _ s
  | wireScroll v => exact sendWire_traffic _ s
  | wireMap v => exact sendWire_traffic _ s
  | wireVbias => exact sendWire_traffic _ s
  | wireAllon v => exact sendWire_traffic _ s
  | wireInv v => exact sendWire_traffic _ s
  | wireDispen v => exact sendWire_traffic _ s
  | wireSysrst => exact sendWire_traffic _ s
  | wireVbiasValue v => exact sendWire_traffic _ s

/-- `t` has the trace of `s` and after it the traffic of one request under the parameters of `s`. -/
def AppendsTraffic (s t : State) : Prop :=
  ∃ events, t.trace = s.trace ++ events ∧ RequestTraffic s.params events

theorem appendsTraffic_of_trace_eq {s t : State} (h : t.trace = s.trace) : AppendsTraffic s t :=
  ⟨[], by rw [h, List.append_nil], requestTraffic_nil s.params⟩

theorem exec_appendsTraffic {i : Instr} {s t : State} (h : exec i s = .next t) : AppendsTraffic s t := by
  obtain ⟨w, r, he, hspec, hsends⟩ := exec_eq_execute_traffic i s
  rw [he] at h
  exact execute_appends hspec hsends (requestTraffic_nil s.params) h

theorem serveWord_appendsTraffic {p : PortWord} {s t : State} (h : serveWord p s = .next t) :
    AppendsTraffic s t :=
  serveWord_keeps (P := AppendsTraffic s) id (fun _ _ => id) (fun _ _ => exec_appendsTraffic)
    (appendsTraffic_of_trace_eq rfl) h

/-- Waiting and block reset send nothing (70_reset_and_hazards.md R261, R262); a word sends one request's
traffic. -/
theorem step_appendsTraffic {s t : State} (h : step s = .next t) : AppendsTraffic s t := by
  obtain ⟨-, rfl⟩ | ⟨rest, -, rfl⟩ | ⟨p, rest, -, hp⟩ := step_next h
  · exact appendsTraffic_of_trace_eq rfl
  · exact appendsTraffic_of_trace_eq rfl
  · exact serveWord_appendsTraffic (s := s.setInputs rest) hp

/-- Settles O11: the traffic of one request goes from idle to idle. -/
theorem stepKeepsTheBusDiscipline : Obligations.StepKeepsTheBusDiscipline := by
  intro s t hs h
  obtain ⟨events, htrace, htraffic⟩ := step_appendsTraffic h
  calc BusPhase.idle.run t.trace
      = (BusPhase.idle.run s.trace).bind (·.run events) := by rw [htrace, BusPhase.run_append]
    _ = BusPhase.idle.run events := by rw [hs, Option.bind_some]
    _ = some .idle := htraffic.framedEvents.run

/-- Settles O19: a step's one pulse is the run's. -/
theorem resetPulsesKeepTheMinimums : Obligations.ResetPulsesKeepTheMinimums := by
  intro s t hlegal h
  obtain ⟨events, htrace, htraffic⟩ := step_appendsTraffic h
  refine ⟨events, htrace, fun lowUs settleMs hmem => ?_⟩
  obtain ⟨rfl, rfl⟩ := htraffic.resetPulse_eq hmem
  exact hlegal

end Sys2Proof.Machine
end

section
/-! The requests of the framer (40_framer.md R110 to R123), seen from outside: where its operands are in range each
sends its pulse and its one transaction, and else it faults with its own word. -/

namespace Sys2Proof.Machine

/-! ### Operand checks -/

theorem flagInRange_iff {f : Byte} : flagInRange f = true ↔ f.toNat ≤ 1 := decide_eq_true_iff

theorem lineInRange_iff {line : Byte} : lineInRange line = true ↔ line.toNat < 64 := decide_eq_true_iff

theorem orientInRange_iff {mapMask v : Byte} : orientInRange mapMask v = true ↔ v &&& ~~~mapMask = 0 :=
  beq_iff_eq

theorem flagBit_eq_ofNat (f : Byte) : flagBit f = BitVec.ofNat 1 f.toNat := rfl

/-! ### What executing a rule leaves -/

/-- A rule that sends one transaction whose body begins with a command frame. -/
theorem execute_txn {s s' : State} {w : Word32} {r : RuleResult} {body : List BusEvent} (hf : s.fault = 0)
    (hr : r = .done s' (txn body)) (hbody : ∃ b rest, body = cmdFrame b ++ rest ∧ FramedBody rest) :
    execute w s r = .next (s'.afterSending (sentTransaction body)) := by
  rw [hr, execute_done _ _ _ hf, emit_txn_report' s' hbody]

/-- A rule that sends one command frame. -/
theorem execute_cmdFrame {s s' : State} {w : Word32} {r : RuleResult} {b : Byte} (hf : s.fault = 0)
    (hr : r = .done s' (txn (cmdFrame b))) :
    execute w s r = .next (s'.afterSending (sentTransaction (sentFrame b))) :=
  execute_txn hf hr (begins_cmdFrame b)

/-- A rule that sends its operand OR'd onto a base code where the operand is in range, and raises VALUE_RANGE
where it is not. -/
theorem execute_rangedCommand {s s' : State} {op v base : Byte} {r : RuleResult} {inRange : Prop}
    [Decidable inRange] (hf : s.fault = 0)
    (hr : r = if inRange then .done s' (txn (cmdFrame (base ||| v))) else .raise .valueRange) :
    (inRange → execute (requestWord op v 0 0) s r =
      .next (s'.afterSending (sentTransaction (sentFrame (base ||| v))))) ∧
    (¬ inRange → execute (requestWord op v 0 0) s r =
      .next (s.afterFault 3 .valueRange (wordOf op.toNat v.toNat 0 0))) :=
  ⟨fun hin => execute_cmdFrame hf (hr.trans (if_pos hin)),
    fun hout => execute_requestWord_raise op v 0 0 hf (hr.trans (if_neg hout))⟩

theorem driveCs_pulseIf (on : Bool) (p : Params) (l : CsLevel) : driveCs l (pulseIf on p) = l := by
  cases on <;> rfl

theorem driveCd_pulseIf (on : Bool) (p : Params) (l : CdLevel) : driveCd l (pulseIf on p) = l := by
  cases on <;> rfl

theorem emit_pulseIf_report (s : State) (on : Bool) (p : Params) :
    (s.emit (pulseIf on p)).report .done = s.afterPulse (pulseIf on p) := by
  rw [State.emit, driveCs_pulseIf, driveCd_pulseIf]
  rfl

/-- A rule that sends a pulse, if asked, and then command frames: without frames there is no transaction
(R103). -/
theorem execute_pulse_cmdFrames {s : State} {w : Word32} {r : RuleResult} {on : Bool} {cmds : List Byte}
    (hf : s.fault = 0) (hr : r = .done s (pulseIf on s.params ++ txn (cmdFrames cmds))) :
    (cmds = [] → execute w s r = .next (s.afterPulse (pulseIf on s.params))) ∧
    (cmds ≠ [] → execute w s r =
      .next (s.afterSending (pulseIf on s.params ++ sentTransaction (cmds.flatMap sentFrame)))) := by
  rw [hr, execute_done _ _ _ hf]
  refine ⟨?_, fun hne => ?_⟩
  · rintro rfl
    have hnone : pulseIf on s.params ++ txn (cmdFrames []) = pulseIf on s.params := List.append_nil _
    rw [hnone, emit_pulseIf_report]
  · rw [emit_txn_report s (driveCs_pulseIf on _) (driveCd_pulseIf on _) (begins_cmdFrames hne), cmdFrames_eq]

/-! ### The counts of a full clear (R106) -/

theorem framedBody_clearPage (rc : RegCode) (p : Nat) : FramedBody (clearPage rc p) :=
  (framedBody_cursorSet rc 0 p).append (framedBody_dataBytes _)

/-- A count that every page of a clear raises by `k`, whatever follows it. -/
theorem count_clearPages {count : List BusEvent → Nat} {k : Nat} {rc : RegCode} (hnil : count [] = 0)
    (hpage : ∀ p rest, count (clearPage rc p ++ rest) = k + count rest) (ps : List Nat) :
    count (ps.flatMap (clearPage rc)) = k * ps.length := by
  induction ps with
  | nil => exact hnil
  | cons p ps ih =>
    rw [List.flatMap_cons, hpage, ih, List.length_cons]
    ring

theorem count_clearBody {count : List BusEvent → Nat} {k : Nat} {rc : RegCode} (hnil : count [] = 0)
    (hpage : ∀ p rest, count (clearPage rc p ++ rest) = k + count rest) : count (clearBody rc) = k * 8 :=
  count_clearPages hnil hpage (List.range 8)

theorem length_clearPage (rc : RegCode) (p : Nat) : (clearPage rc p).length = 201 := by
  rw [clearPage, List.length_append, dataBytes, List.length_map, List.length_replicate]
  rfl

theorem length_commandBytes_clearPage (rc : RegCode) (p : Nat) : (commandBytes (clearPage rc p)).length = 3 := by
  rw [clearPage, (framedBody_cursorSet rc 0 p).commandBytes_append, commandBytes_dataBytes,
    commandBytes_cursorSet]
  rfl

theorem length_sentData_clearPage (rc : RegCode) (p : Nat) : (sentData (clearPage rc p)).length = 192 := by
  rw [clearPage, (framedBody_cursorSet rc 0 p).sentData_append, sentData_dataBytes, sentData_cursorSet,
    List.nil_append, List.length_replicate]

theorem length_clearBody (rc : RegCode) : (clearBody rc).length = 1608 :=
  count_clearBody (count := List.length) (k := 201) rfl (fun p rest => by rw [List.length_append, length_clearPage])

theorem length_commandBytes_clearBody (rc : RegCode) : (commandBytes (clearBody rc)).length = 24 :=
  count_clearBody (count := fun xs => (commandBytes xs).length) (k := 3) rfl
    (fun p rest => by
      rw [(framedBody_clearPage rc p).commandBytes_append, List.length_append, length_commandBytes_clearPage])

theorem length_sentData_clearBody (rc : RegCode) : (sentData (clearBody rc)).length = 1536 :=
  count_clearBody (count := fun xs => (sentData xs).length) (k := 192) rfl
    (fun p rest => by
      rw [(framedBody_clearPage rc p).sentData_append, List.length_append, length_sentData_clearPage])

theorem length_sentTransaction (body : List BusEvent) : (sentTransaction body).length = body.length + 4 := by
  simp [sentTransaction]

/-- The counts of R106: eight pages of three commands and 192 data bytes, in one transaction. -/
theorem sentClear_counts (rc : RegCode) :
    (sentTransaction (sentClear rc)).length = 1612 ∧ byteCount (sentTransaction (sentClear rc)) = 1560 ∧
      (commandBytes (sentTransaction (sentClear rc))).length = 24 := by
  have hframed := framedBody_clearBody rc
  rw [← clearBody_eq_sentClear, byteCount, length_sentTransaction, hframed.commandBytes_txn, hframed.sentData_txn,
    length_clearBody, length_commandBytes_clearBody, length_sentData_clearBody]
  decide

/-! ### The obligations -/

/-- Settles O32: the body of the clear begins with a cursor-set, and the counts are those of its eight pages. -/
theorem clearHomesAndSendsTheFullClear : Obligations.ClearHomesAndSendsTheFullClear := by
  refine ⟨fun s hf => ?_, sentClear_counts⟩
  rw [← clearBody_eq_sentClear]
  exact execute_txn (w := requestWord 0x0D 0 0 0) hf rfl (clearBody_eq_cons _)

/-- Settles O21: the one test of SENDCMD is that no bit is in both operands. -/
theorem sendcmdSendsOneByte : Obligations.SendcmdSendsOneByte := by
  intro s reg val hf
  refine ⟨fun hdisjoint => ?_, fun hoverlap => ?_⟩
  · exact execute_cmdFrame (w := requestWord 0x01 reg val 0) hf (if_neg (not_not_intro hdisjoint))
  · exact execute_requestWord_raise 0x01 reg val 0 hf (if_pos hoverlap)

/-- Settles O22: the position is tested against the surface before the cursor is written. -/
theorem setcurMovesTheCursor : Obligations.SetcurMovesTheCursor := by
  intro s col page hf
  refine ⟨fun hon => ?_, fun hoff => ?_⟩
  · rw [BitVec.ofNat_toNat, ← cursorSet_eq_sentCursor _ _ col.isLt]
    obtain ⟨b, rest, hbody⟩ := cursorSet_eq_cons s.params.regcode col.toNat page.toNat
    exact execute_txn (w := requestWord 0x02 col page 0) hf (if_pos (onSurface_iff.mpr hon)) ⟨b, rest, hbody⟩
  · have hnot : ¬ onSurface col.toNat page.toNat = true := by
      rw [onSurface_iff]
      omega
    exact execute_requestWord_raise 0x02 col page 0 hf (if_neg hnot)

/-- Settles O23: the Vbias byte and the value are two frames of one body. -/
theorem contrastSendsTwoFrames : Obligations.ContrastSendsTwoFrames := by
  intro s v hf
  exact execute_txn (w := requestWord 0x03 v 0 0) hf rfl
    (begins_append (begins_cmdFrame _) (framedBody_cmdFrame v))

/-- Settles O24: a line is in range below the display's height. -/
theorem scrollSendsTheLine : Obligations.ScrollSendsTheLine := by
  intro s line hf
  obtain ⟨hin, hout⟩ := execute_rangedCommand (r := ruleScroll line s) (op := 0x04) hf rfl
  rw [lineInRange_iff] at hin hout
  exact ⟨hin, fun h => hout (Nat.not_lt.mpr h)⟩

/-- Settles O25: an orientation is in range inside the run's `MAP_MASK`. -/
theorem rotateSetsTheOrientation : Obligations.RotateSetsTheOrientation := by
  intro s v hf
  obtain ⟨hin, hout⟩ := execute_rangedCommand (r := ruleRotate v s) (op := 0x05) hf rfl
  rw [orientInRange_iff] at hin hout
  exact ⟨hin, hout⟩

/-- Settles O26: a flag is in range up to 1, and the register keeps its low bit. -/
theorem invertSetsTheInversion : Obligations.InvertSetsTheInversion := by
  intro s f hf
  obtain ⟨hin, hout⟩ := execute_rangedCommand (r := ruleInvert f s) (op := 0x06) hf rfl
  rw [flagInRange_iff] at hin hout
  rw [← flagBit_eq_ofNat]
  exact ⟨hin, fun h => hout (Nat.not_le.mpr h)⟩

/-- Settles O27: the two requests differ in their base code and their word alone. -/
theorem allonAndDispenSendTheirFlag : Obligations.AllonAndDispenSendTheirFlag := by
  intro s f hf
  obtain ⟨hallonIn, hallonOut⟩ := execute_rangedCommand (r := ruleAllon f s) (op := 0x07) hf rfl
  obtain ⟨hdispenIn, hdispenOut⟩ := execute_rangedCommand (r := ruleDispen f s) (op := 0x08) hf rfl
  rw [flagInRange_iff] at hallonIn hallonOut hdispenIn hdispenOut
  exact ⟨fun h => ⟨hallonIn h, hdispenIn h⟩,
    fun h => ⟨hallonOut (Nat.not_le.mpr h), hdispenOut (Nat.not_le.mpr h)⟩⟩

/-- Settles O28: SYSRST is one frame, and HWRST is a pulse with no frame after it. -/
theorem displayResetsLeaveTheBlockAlone : Obligations.DisplayResetsLeaveTheBlockAlone := by
  intro s hf
  refine ⟨execute_cmdFrame (w := requestWord 0x09 0 0 0) hf rfl, ?_⟩
  obtain ⟨hpulse, -⟩ :=
    execute_pulse_cmdFrames (w := requestWord 0x0A 0 0 0) (on := true) (cmds := []) (r := ruleHwrst s) hf rfl
  exact hpulse rfl

/-- Settles O29: INIT always asks for the pulse. -/
theorem initPulsesThenSendsItsSequence : Obligations.InitPulsesThenSendsItsSequence := by
  intro s cmds hf hcmds
  subst hcmds
  exact execute_pulse_cmdFrames (w := requestWord 0x0B 0 0 0) (on := true) hf rfl

/-- Settles O31: PWRDN asks for the pulse where `PWRDN_PULSE` says so. -/
theorem pwrdnSendsItsSequence : Obligations.PwrdnSendsItsSequence := by
  intro s hf
  exact execute_pulse_cmdFrames (w := requestWord 0x0C 0 0 0) (on := s.params.pwrdnPulse) hf rfl

end Sys2Proof.Machine
end

section
/-! The configuration setters (41_text.md R150 to R152): each latches its register and sends nothing, or faults
where its operand is out of range. -/

namespace Sys2Proof.Machine

/-- A rule that sends nothing. -/
theorem execute_silent {s s' : State} {w : Word32} {r : RuleResult} (hf : s.fault = 0) (hr : r = .done s' []) :
    execute w s r = .next s'.afterSilence := by
  rw [hr, execute_done _ _ _ hf, emit_nil_report]

/-- A header that lies wholly in the font memory is latched, without its height byte (R150). -/
theorem ruleSetfont_of_header {s : State} {b : BitVec 16} {width first last : Byte}
    (hrange : b.toNat + 3 < s.fm.size) (hwidth : s.fm.read b.toNat = some width)
    (hfirst : s.fm.read (b.toNat + 2) = some first) (hlast : s.fm.read (b.toNat + 3) = some last) :
    ruleSetfont b s = .done (s.setFont b width first last) [] := by
  rw [ruleSetfont, if_neg (Nat.not_le.mpr hrange), hwidth, hfirst, hlast]

theorem ruleSetfont_outside {s : State} {b : BitVec 16} (h : s.fm.size ≤ b.toNat + 3) :
    ruleSetfont b s = .raise .fontOob := if_pos h

theorem ruleSetscale_ignored {v : Byte} (s : State) (h : v ≠ 1 ∧ v ≠ 2) : ruleSetscale v s = .done s [] :=
  if_neg (not_or.mpr h)

/-- Settles O35: the range is tested once, and inside it every byte of the header exists. -/
theorem setfontLatchesTheHeader : Obligations.SetfontLatchesTheHeader := by
  intro s b hf
  refine ⟨fun hin => ?_, fun hout => ?_⟩
  · obtain ⟨width, hwidth⟩ := Memory.exists_read (m := s.fm) (a := b.toNat) (by omega)
    obtain ⟨first, hfirst⟩ := Memory.exists_read (m := s.fm) (a := b.toNat + 2) (by omega)
    obtain ⟨last, hlast⟩ := Memory.exists_read hin
    exact ⟨width, first, last, hwidth, hfirst, hlast,
      execute_silent (w := setfontWord b) hf (ruleSetfont_of_header hin hwidth hfirst hlast)⟩
  · rw [← setfontWord_eq_wordOf]
    calc exec (.setfont b) s
        = execute (setfontWord b) s (.raise .fontOob) := by rw [← ruleSetfont_outside hout]; rfl
      _ = .next (s.takeFault .fontOob (setfontWord b)) := execute_raise _ _ hf

/-- Settles O36: SETSCALE tests for its two values and SETAA for a flag. -/
theorem setscaleAndSetaaSetTheirRegister : Obligations.SetscaleAndSetaaSetTheirRegister := by
  intro s v hf
  refine ⟨?_, ?_, fun hv => ?_, fun hv => ?_, fun hv => ?_⟩
  · rintro rfl
    exact execute_silent (w := requestWord 0x0F 1 0 0) hf rfl
  · rintro rfl
    exact execute_silent (w := requestWord 0x0F 2 0 0) hf rfl
  · exact execute_silent (w := requestWord 0x0F v 0 0) hf (ruleSetscale_ignored s hv)
  · rw [← flagBit_eq_ofNat]
    exact execute_silent (w := requestWord 0x10 v 0 0) hf (if_pos (flagInRange_iff.mpr hv))
  · exact execute_requestWord_raise 0x10 v 0 0 hf (if_neg (by rw [flagInRange_iff]; omega))

end Sys2Proof.Machine
end

section
/-! The control codes (41_text.md R157 to R160, R164): the cursor moves, and a reposition follows it where it is
on the surface. -/

namespace Sys2Proof.Machine

/-! ### What executing a character leaves -/

/-- PUTC with a font selected executes its case statement (R170). -/
theorem exec_putc {s : State} (c : Byte) (hv : s.fontValid = 1) :
    exec (.putc c) s = execute (requestWord 0x11 c 0 0) s (putChar c s) := execPutc_of_font c hv

/-- The reposition is dropped below the last page as well (R156). -/
theorem reposition_outside (rc : RegCode) {c p : Nat} (h : 192 ≤ c ∨ 8 ≤ p) : reposition rc c p = [] := by
  rw [reposition, if_neg (by rw [onSurface_iff]; omega)]

/-- A rule that moves the cursor and sends the reposition alone: the cursor-set on the surface, and off it no
transaction at all (R103, R156). -/
theorem execute_reposition {s s' : State} {w : Word32} {r : RuleResult} {rc : RegCode} {c p : Nat}
    (hf : s.fault = 0) (hr : r = .done s' (txn (reposition rc c p))) :
    (c < 192 ∧ p < 8 → execute w s r = .next (s'.afterSending (sentTransaction (sentCursor rc c p)))) ∧
    (192 ≤ c ∨ 8 ≤ p → execute w s r = .next s'.afterSilence) := by
  refine ⟨fun hon => ?_, fun hoff => ?_⟩
  · rw [reposition_on rc hon.1 hon.2] at hr
    exact execute_txn hf hr (begins_sentCursor rc p (by omega))
  · rw [reposition_outside rc hoff, txn_nil] at hr
    exact execute_silent hf hr

/-! ### Each code -/

theorem putChar_unrecognised {s : State} {c : Byte} (h : classify s c = .unrecognised) :
    putChar c s = .done s [] := by
  rw [putChar, h, putUnrecognised]

/-- LF above the last line (R158). -/
theorem putLf_down {s : State} (h : s.row.toNat + s.scale.toNat < 8) :
    putLf s = .done (s.setCursor s.col (BitVec.ofNat 8 (s.row.toNat + s.scale.toNat)))
      (txn (reposition s.params.regcode s.col.toNat (s.row.toNat + s.scale.toNat))) := by
  rw [putLf, nextLine_down h]

/-- LF on the last line (R158). -/
theorem putLf_clear {s : State} (h : 8 ≤ s.row.toNat + s.scale.toNat) :
    putLf s = .done (s.setCursor 0 0)
      (txn (sentClear s.params.regcode ++ sentCursor s.params.regcode 0 0)) := by
  rw [putLf, nextLine_clear h, clearBody_eq_sentClear, reposition_on _ (by decide) (by decide)]

theorem putTab_kept {s : State} (h : s.col.toNat + 4 * glyphAdvance s ≤ 65535) :
    putTab s = .done (s.setCursor (BitVec.ofNat 16 (s.col.toNat + 4 * glyphAdvance s)) s.row)
      (txn (reposition s.params.regcode (s.col.toNat + 4 * glyphAdvance s) s.row.toNat)) :=
  if_neg (Nat.not_lt.mpr h)

theorem putTab_overflow {s : State} (h : 65535 < s.col.toNat + 4 * glyphAdvance s) :
    putTab s = .raise .cursorOverflow := if_pos h

/-- Settles O38: both codes leave the cursor without a reposition. -/
theorem carriageReturnAndUnknownCodesSendNothing : Obligations.CarriageReturnAndUnknownCodesSendNothing := by
  intro s c hf hv
  refine ⟨?_, ?_⟩
  · rw [exec_putc _ hv]
    exact execute_silent (s' := s.setCursor 0 s.row) hf rfl
  · rintro ⟨hcr, hlf, htab, hbs, hrange⟩
    rw [exec_putc _ hv]
    exact execute_silent hf (putChar_unrecognised (classify_unrecognised hcr hlf htab hbs hrange))

/-- Settles O39: the next line, or the clear where there is none. -/
theorem lineFeedMovesDownOrClears : Obligations.LineFeedMovesDownOrClears := by
  intro s hf hv
  rw [exec_putc _ hv]
  refine ⟨?_, ?_, fun hclear => ?_⟩
  · rintro ⟨hrow, hcol⟩
    exact (execute_reposition hf (putLf_down hrow)).1 ⟨hcol, hrow⟩
  · rintro ⟨hrow, hcol⟩
    exact (execute_reposition hf (putLf_down hrow)).2 (.inl hcol)
  · exact execute_txn hf (putLf_clear hclear)
      (begins_append (begins_sentClear _) (framedBody_of_begins (begins_sentCursor _ 0 (by decide))))

/-- Settles O40: the column is tested against its register before it is written. -/
theorem tabAdvancesFourGlyphs : Obligations.TabAdvancesFourGlyphs := by
  rintro s _ hf hv rfl
  rw [exec_putc _ hv]
  refine ⟨fun hon => ?_, ?_, fun hover => ?_⟩
  · exact (execute_reposition hf (putTab_kept (by omega))).1 hon
  · rintro ⟨hoff, hkept⟩
    exact (execute_reposition hf (putTab_kept hkept)).2 hoff
  · exact execute_requestWord_raise 0x11 0x09 0 0 hf (putTab_overflow hover)

/-- Settles O41: the subtraction stops at column 0, and nothing else is tested. -/
theorem backspaceMovesOneGlyphBack : Obligations.BackspaceMovesOneGlyphBack := by
  rintro s _ hf hv rfl
  rw [exec_putc _ hv]
  exact execute_reposition
    (s' := s.setCursor (BitVec.ofNat 16 (s.col.toNat - glyphAdvance s)) s.row) hf rfl

end Sys2Proof.Machine
end

section
/-! The printable codes (41_text.md R161 to R168): the glyph checks, the wrap where it is due, the glyph at the
cursor the wrap leaves, and the advance; PUTCAT is PUTC at the position it names (R171). -/

namespace Sys2Proof.Machine

/-! ### The glyph checks (R163) -/

theorem putChar_printable {s : State} {c : Byte} (h : printableCode s c) : putChar c s = putPrintable c s := by
  rw [putChar, classify_printable h]

theorem putPrintable_raise {s : State} {c : Byte} {code : FaultCode} (h : glyphFault c s = some code) :
    putPrintable c s = .raise code := by
  rw [putPrintable, h]

theorem glyphFault_width {s : State} (c : Byte) (h : s.scale = 2 ∧ s.fw ≠ 5) :
    glyphFault c s = some .glyphWidth := if_pos h

theorem glyphFault_fontOob {s : State} {c : Byte} (hwidth : ¬ (s.scale = 2 ∧ s.fw ≠ 5)) (hfw : 0 < s.fw.toNat)
    (hout : s.fm.size < glyphStart s c + s.fw.toNat) : glyphFault c s = some .fontOob := by
  rw [glyphFault, if_neg hwidth, if_pos]
  simp only [glyphAddress, glyphStart] at *
  omega

theorem glyphFault_of_present {s : State} {c : Byte} (hwidth : ¬ (s.scale = 2 ∧ s.fw ≠ 5))
    (hg : glyphPresent s c) : glyphFault c s = none := by
  rw [glyphFault, if_neg hwidth, if_neg]
  simp only [glyphPresent, glyphAddress, glyphStart] at *
  omega

/-- Where the checks pass, the rule raises no fault: every glyph byte it reads exists. -/
theorem putPrintable_of_checked {s : State} {c : Byte} (h : glyphFault c s = none) :
    ∃ s' events, putPrintable c s = .done s' events := by
  obtain ⟨x, y, hw, -⟩ := wrap_spec s
  obtain ⟨glyph, hglyph⟩ := exists_render h x y
  rw [putPrintable, h, hw, hglyph]
  exact ⟨_, _, rfl⟩

/-- A rule that meets its specification and raises nothing leaves `FAULT` 0. -/
theorem execute_done_fault {s s' : State} {w : Word32} {r : RuleResult} {events : List BusEvent}
    (hf : s.fault = 0) (hspec : RuleSpec s r) (hr : r = .done s' events) :
    ∃ t, execute w s r = .next t ∧ t.fault = 0 := by
  subst hr
  obtain ⟨hrun, -⟩ := hspec
  exact ⟨_, execute_done w s' events hf, hrun.fault.trans hf⟩

/-- Settles O42: the width is tested first, then the glyph's range, and nothing else can fault. -/
theorem glyphChecksComeFirst : Obligations.GlyphChecksComeFirst := by
  intro s c hf hv hp
  rw [exec_putc _ hv, putChar_printable hp]
  refine ⟨fun hwidth => ?_, ?_, ?_⟩
  · exact execute_requestWord_raise 0x11 c 0 0 hf (putPrintable_raise (glyphFault_width c hwidth))
  · rintro ⟨hwidth, hfw, hout⟩
    exact execute_requestWord_raise 0x11 c 0 0 hf (putPrintable_raise (glyphFault_fontOob hwidth hfw hout))
  · rintro ⟨hwidth, hg⟩
    obtain ⟨s', events, hdone⟩ := putPrintable_of_checked (glyphFault_of_present hwidth hg)
    exact execute_done_fault hf (putPrintable_spec c s) hdone

/-! ### The glyph -/

/-- A wrap sends nothing, or begins with a command frame (R162). -/
theorem wrap_begins (s : State) :
    (wrap s).2 = [] ∨ ∃ b rest, (wrap s).2 = cmdFrame b ++ rest ∧ FramedBody rest := by
  obtain hcol | hcol := Nat.lt_or_ge s.col.toNat 192
  · exact .inl (by rw [wrap_none hcol])
  · right
    obtain hrow | hrow := Nat.lt_or_ge (s.row.toNat + s.scale.toNat) 8
    · rw [wrap_down hcol hrow]
      exact begins_sentCursor _ _ (by decide)
    · rw [wrap_clear hcol hrow]
      exact begins_append (begins_sentClear _) (framedBody_of_begins (begins_sentCursor _ 0 (by decide)))

/-- The wrap's events and the glyph's make one body that begins with a command frame. -/
theorem begins_wrap_sentGlyph (s : State) (g : List Byte) {c : Nat} (p : Nat) (h : c < 256) :
    ∃ b rest, (wrap s).2 ++ sentGlyph s g c p = cmdFrame b ++ rest ∧ FramedBody rest := by
  have hglyph := begins_sentGlyph s g p h
  obtain hnil | hwrap := wrap_begins s
  · rwa [hnil, List.nil_append]
  · exact begins_append hwrap (framedBody_of_begins hglyph)

/-- PUTC of a code whose glyph can be drawn, wrap or not: the glyph goes to the cursor the wrap leaves, and the
cursor advances from there (R161). -/
theorem exec_putc_printable {s : State} {c : Byte} (hf : s.fault = 0) (hv : s.fontValid = 1)
    (hd : drawableScale s) (hp : printableCode s c) (hg : glyphPresent s c) :
    ∃ g, glyphColumns s c g ∧ ∀ x y before, wrap s = (s.setCursor x y, before) → exec (.putc c) s =
      .next (State.afterSending (s.setCursor (BitVec.ofNat 16 (x.toNat + glyphAdvance s)) y)
        (sentTransaction (before ++ sentGlyph s g x.toNat y.toNat))) := by
  obtain ⟨g, hcolumns, hput⟩ := putPrintable_done hd hg
  refine ⟨g, hcolumns, fun x y before hwrap => ?_⟩
  have hx : x.toNat < 192 := by simpa [hwrap] using wrap_col_lt s
  have hdone := hput x y (by rw [hwrap]) hx
  have hbegins := begins_wrap_sentGlyph s g y.toNat (show x.toNat < 256 by omega)
  rw [hwrap] at hdone hbegins
  rw [exec_putc _ hv, putChar_printable hp]
  exact execute_txn hf hdone hbegins

/-- Settles O43: left of the right edge there is no wrap. -/
theorem putcPrintsAtTheCursor : Obligations.PutcPrintsAtTheCursor := by
  intro s c hf hv hd hp hg hcol
  obtain ⟨g, hcolumns, hexec⟩ := exec_putc_printable hf hv hd hp hg
  exact ⟨g, hcolumns, hexec s.col s.row [] (wrap_none hcol)⟩

/-- Settles O44: at or past the right edge the wrap moves down or clears. -/
theorem putcWrapsThenPrints : Obligations.PutcWrapsThenPrints := by
  intro s c hf hv hd hp hg hcol
  obtain ⟨g, hcolumns, hexec⟩ := exec_putc_printable hf hv hd hp hg
  have hhome : (0 : BitVec 16).toNat = 0 := rfl
  refine ⟨g, hcolumns, fun hrow => ?_, fun hrow => ?_⟩
  · have hnext : (BitVec.ofNat 8 (s.row.toNat + s.scale.toNat)).toNat = s.row.toNat + s.scale.toNat := by
      rw [BitVec.toNat_ofNat]
      omega
    have hdown := hexec _ _ _ (wrap_down hcol hrow)
    rw [hnext, hhome, Nat.zero_add] at hdown
    exact hdown
  · have hclear := hexec _ _ _ (wrap_clear hcol hrow)
    rw [hhome, Nat.zero_add] at hclear
    exact hclear

/-! ### The column a printable code leaves -/

theorem putPrintable_leaves_col (c : Byte) {s : State} (hadv : glyphAdvance s ≤ 512) :
    (putPrintable c s).Leaves fun s' => s'.col.toNat ≤ 703 := by
  unfold putPrintable
  split
  · trivial
  · split
    · trivial
    · have hcol := wrap_col_lt s
      change (BitVec.ofNat 16 ((wrap s).1.col.toNat + glyphAdvance s)).toNat ≤ 703
      rw [BitVec.toNat_ofNat]
      omega

theorem glyphAdvance_scale1 {s : State} (h : s.scale = 1) : glyphAdvance s = s.fw.toNat + 1 := by
  rw [glyphAdvance, h]
  exact congrArg (· + 1) (Nat.mul_one _)

theorem glyphAdvance_scale2 {s : State} (h : s.scale = 2) : glyphAdvance s = s.fw.toNat * 2 + 2 := by
  rw [glyphAdvance, h]
  rfl

/-- A font is at most 255 columns wide. -/
theorem glyphAdvance_le {s : State} (h : s.scale = 1 ∨ s.scale = 2) : glyphAdvance s ≤ 512 := by
  have hfw := s.fw.isLt
  obtain h1 | h2 := h
  · rw [glyphAdvance_scale1 h1]
    omega
  · rw [glyphAdvance_scale2 h2]
    omega

/-- A request that leaves `FAULT` 0 where it was 0 ends as its rule does. -/
theorem execute_next_of_fault_zero {P : State → Prop} {w : Word32} {s t : State} {r : RuleResult}
    (hf : s.fault = 0) (ht : t.fault = 0) (h : execute w s r = .next t) (hr : r.Leaves P) :
    ∃ s' events, P s' ∧ t = (s'.emit events).report .done := by
  obtain ⟨hne, -⟩ | ⟨-, s', events, rfl, rfl⟩ | ⟨-, code, -, rfl⟩ := execute_next h
  · exact absurd hf hne
  · exact ⟨s', events, hr, rfl⟩
  · exact absurd ht (faultNumber_ne_zero code)

/-- Settles O45: the wrap leaves a column below 192, and an advance is at most 512 under R44. -/
theorem printedColumnStaysBelow704 : Obligations.PrintedColumnStaysBelow704 := by
  intro s t c hs hf hp h ht
  have hleaves : (rulePutc c s).Leaves fun s' => s'.col.toNat ≤ 703 := by
    unfold rulePutc
    split
    · trivial
    · rw [putChar_printable hp]
      exact putPrintable_leaves_col c (glyphAdvance_le hs.scale)
  obtain ⟨s', events, hcol, rfl⟩ :=
    execute_next_of_fault_zero (w := requestWord 0x11 c 0 0) hf ht h hleaves
  exact hcol

/-! ### PUTCAT -/

/-- PUTCAT at a position on the surface executes PUTC's case statement there, but takes a fault where the cursor
was (R171). -/
theorem exec_putcat {s : State} {col row : Byte} (code : Byte) (hv : s.fontValid = 1)
    (hpos : col.toNat < 192 ∧ row.toNat < 8) :
    exec (.putcat code col row) s =
      execute (requestWord 0x12 code col row) s (putChar code (s.setCursor (col.zeroExtend 16) row)) := by
  have hrule : rulePutcat code col row s = putChar code (s.setCursor (col.zeroExtend 16) row) := by
    rw [rulePutcat, if_pos (onSurface_iff.mpr hpos), if_neg (by rw [hv]; decide)]
  rw [← hrule]
  rfl

/-- Settles O46: the two requests execute one rule, and differ in their word and in the state a fault is taken
in. -/
theorem putcatIsPutcAtThePosition : Obligations.PutcatIsPutcAtThePosition := by
  intro s code col row hf hv
  refine ⟨fun hpos => ?_, fun hpos => ?_⟩
  · exact execute_requestWord_raise 0x12 code col row hf (rulePutcat_offSurface code s hpos)
  · have hputc := exec_putc (s := s.setCursor (col.zeroExtend 16) row) code hv
    have hputcat := exec_putcat code hv hpos
    have hspec := putChar_spec code (s.setCursor (col.zeroExtend 16) row)
    rw [BitVec.ofNat_toNat]
    cases hr : putChar code (s.setCursor (col.zeroExtend 16) row) with
    | done s' events =>
      rw [hr] at hputc hputcat hspec
      obtain ⟨hrun, -⟩ := hspec
      have hfault : s'.fault = 0 := hrun.fault.trans hf
      exact ⟨_, hputc.trans (execute_done _ s' events hf), fun _ => hputcat.trans (execute_done _ s' events hf),
        fun hne => absurd hfault hne⟩
    | raise fc =>
      rw [hr] at hputc hputcat
      exact ⟨_, hputc.trans (execute_raise _ fc hf), fun h0 => absurd h0 (faultNumber_ne_zero fc),
        fun _ => ⟨fc, rfl, hputcat.trans (execute_requestWord_raise 0x12 code col row hf rfl)⟩⟩
    | unmapped =>
      rw [hr] at hspec
      exact hspec.elim

/-- Settles O47: what PUTC draws at the position, PUTCAT draws. -/
theorem putcatPrintsAtThePosition : Obligations.PutcatPrintsAtThePosition := by
  intro s code col row hf hv hd hp hg hcol hrow
  have hat : (BitVec.ofNat 16 col.toNat).toNat = col.toNat := by
    rw [BitVec.toNat_ofNat]
    omega
  obtain ⟨g, hcolumns, hputc⟩ := putcPrintsAtTheCursor
    { s with col := BitVec.ofNat 16 col.toNat, row := row } code hf hv hd hp hg (by rw [hat]; exact hcol)
  obtain ⟨-, hsame⟩ := putcatIsPutcAtThePosition s code col row hf hv
  obtain ⟨t, ht, hdone, -⟩ := hsame ⟨hcol, hrow⟩
  rw [hputc] at ht
  injection ht with ht
  subst ht
  rw [hat] at hdone
  exact ⟨g, hcolumns, hdone hf⟩

end Sys2Proof.Machine
end

section
/-! The bytes a character sends (41_text.md R169, R174): a printable code its glyph's columns, any other code no
data byte but the zeros of an overflow clear. -/

namespace Sys2Proof.Machine

/-! ### Codes that do not print -/

theorem FramedBody.sentData_of_txn {body : List BusEvent} (h : FramedBody body) :
    sentData (txn body) = sentData body := by
  by_cases hne : body = []
  · rw [hne, txn_nil]
  · rw [txn_of_ne_nil hne, h.sentData_txn]

theorem sentData_txn_reposition (rc : RegCode) (c p : Nat) : sentData (txn (reposition rc c p)) = [] := by
  rw [(framedBody_reposition rc c p).sentData_of_txn]
  unfold reposition
  split
  · exact sentData_cursorSet rc c p
  · rfl

theorem sentData_clearPage (rc : RegCode) (p : Nat) : sentData (clearPage rc p) = List.replicate 192 0 := by
  rw [clearPage, (framedBody_cursorSet rc 0 p).sentData_append, sentData_dataBytes, sentData_cursorSet]
  rfl

theorem sentData_clearPages (rc : RegCode) (ps : List Nat) :
    sentData (ps.flatMap (clearPage rc)) = List.replicate (192 * ps.length) 0 := by
  induction ps with
  | nil => rfl
  | cons p ps ih =>
    rw [List.flatMap_cons, (framedBody_clearPage rc p).sentData_append, sentData_clearPage, ih,
      List.replicate_append_replicate, List.length_cons, Nat.mul_succ, Nat.add_comm]

theorem sentData_clearBody (rc : RegCode) : sentData (clearBody rc) = List.replicate 1536 0 :=
  sentData_clearPages rc (List.range 8)

/-- The events hold no data byte, or the code is LF and they hold the zeros of a full clear (R174). -/
def NoDataButClear (c : Byte) (events : List BusEvent) : Prop :=
  sentData events = [] ∨ c = 0x0A ∧ sentData events = List.replicate 1536 0

theorem eq_of_classify_lf {s : State} {c : Byte} (h : classify s c = .lf) : c = 0x0A := by
  by_contra hne
  unfold classify at h
  rw [if_neg hne] at h
  split_ifs at h

/-- LF sends the reposition alone, or the clear and the reposition (R158). -/
theorem putLf_noDataButClear (s : State) : (putLf s).Sends (NoDataButClear 0x0A) := by
  unfold putLf
  split
  · refine .inr ⟨rfl, ?_⟩
    have hclear := framedBody_clearBody s.params.regcode
    rw [(hclear.append (framedBody_reposition ..)).sentData_of_txn, hclear.sentData_append, sentData_clearBody]
    exact List.append_nil _
  · exact .inl (sentData_txn_reposition ..)

theorem putChar_noDataButClear {s : State} {c : Byte} (h : ¬ printableCode s c) :
    (putChar c s).Sends (NoDataButClear c) := by
  unfold putChar
  split
  · exact .inl rfl
  · rename_i hlf
    rw [eq_of_classify_lf hlf]
    exact putLf_noDataButClear s
  · exact .ite trivial (.inl (sentData_txn_reposition ..))
  · exact .inl (sentData_txn_reposition ..)
  · rename_i hp
    exact absurd (printable_of_classify hp) h
  · exact .inl rfl

/-- Settles O48: PUTC appends the events of its case statement, or none. -/
theorem onlyPrintableCodesSendData : Obligations.OnlyPrintableCodesSendData := by
  intro s t c hp h
  exact execute_appends (P := NoDataButClear c) (w := requestWord 0x11 c 0 0) (rulePutc_spec c s)
    (.ite trivial (putChar_noDataButClear hp)) (.inl rfl) h

/-! ### The counts of a glyph -/

/-- A framed body with so many command bytes and so many data bytes. -/
structure BodyCounts (body : List BusEvent) (commands data : Nat) : Prop where
  framed   : FramedBody body
  commands : (commandBytes body).length = commands
  data     : (sentData body).length = data

theorem BodyCounts.append {xs ys : List BusEvent} {k l m n : Nat} (hx : BodyCounts xs k l)
    (hy : BodyCounts ys m n) : BodyCounts (xs ++ ys) (k + m) (l + n) where
  framed := hx.framed.append hy.framed
  commands := by rw [hx.framed.commandBytes_append, List.length_append, hx.commands, hy.commands]
  data := by rw [hx.framed.sentData_append, List.length_append, hx.data, hy.data]

theorem bodyCounts_sentCursor (rc : RegCode) (c p : Nat) : BodyCounts (sentCursor rc c p) 3 0 where
  framed := ((framedBody_cmdFrame _).append (framedBody_cmdFrame _)).append (framedBody_cmdFrame _)
  commands := rfl
  data := rfl

theorem bodyCounts_dataBytes (bs : List Byte) : BodyCounts (dataBytes bs) 0 bs.length where
  framed := framedBody_dataBytes bs
  commands := by rw [commandBytes_dataBytes, List.length_nil]
  data := by rw [sentData_dataBytes]

theorem BodyCounts.txn {body : List BusEvent} {k n : Nat} (h : BodyCounts body k n) :
    (commandBytes (sentTransaction body)).length = k ∧ (sentData (sentTransaction body)).length = n := by
  rw [h.framed.commandBytes_txn, h.framed.sentData_txn]
  exact ⟨h.commands, h.data⟩

/-- At scale 1: one cursor-set, the padding column and the glyph's columns (R166). -/
theorem bodyCounts_sentGlyph1x (rc : RegCode) (g : List Byte) (c p : Nat) :
    BodyCounts (sentGlyph1x rc g c p) 3 (g.length + 1) := by
  have h := (bodyCounts_sentCursor rc c p).append (bodyCounts_dataBytes (0 :: g))
  rwa [Nat.zero_add] at h

section Buffer

variable {buf : List Byte} (hbuf : buf.length = 24)
include hbuf

theorem bodyCounts_topHalf (rc : RegCode) (c p : Nat) :
    BodyCounts (sentCursor rc c p ++ dataBytes (buf.take 12)) 3 12 := by
  have h := (bodyCounts_sentCursor rc c p).append (bodyCounts_dataBytes (buf.take 12))
  rwa [List.length_take, hbuf] at h

theorem bodyCounts_bottomHalf (rc : RegCode) (c p : Nat) :
    BodyCounts (sentCursor rc c p ++ dataBytes (buf.drop 12)) 3 12 := by
  have h := (bodyCounts_sentCursor rc c p).append (bodyCounts_dataBytes (buf.drop 12))
  rwa [List.length_drop, hbuf] at h

/-- Above the last page both halves are sent (R167). -/
theorem bodyCounts_sentGlyph2x (rc : RegCode) (c : Nat) {p : Nat} (hp : p < 7) :
    BodyCounts (sentGlyph2x rc buf c p) 6 24 := by
  rw [sentGlyph2x, if_pos (by omega)]
  exact (bodyCounts_topHalf hbuf rc c p).append (bodyCounts_bottomHalf hbuf rc c (p + 1))

/-- On the last page the bottom half is clipped (R168). -/
theorem bodyCounts_sentGlyph2x_clipped (rc : RegCode) (c : Nat) {p : Nat} (hp : 7 ≤ p) :
    BodyCounts (sentGlyph2x rc buf c p) 3 12 := by
  rw [sentGlyph2x, if_neg (by omega), List.append_nil]
  exact bodyCounts_topHalf hbuf rc c p

end Buffer

theorem length_buildStretch (g : List Byte) : (buildStretch g).length = 24 := by
  rw [buildStretch, List.length_append, List.length_map, List.length_map, List.length_range]

theorem length_smooth (buf : StretchBuffer) : (smooth buf).length = buf.length := length_foldl_smoothPair ..

/-- At scale 2 a glyph goes through a stretch buffer of 24 bytes, smoothed or not (R167). -/
theorem sentGlyph_scale2 {s : State} (h : s.scale = 2) (g : List Byte) :
    ∃ buf, buf.length = 24 ∧ ∀ c p, sentGlyph s g c p = sentGlyph2x s.params.regcode buf c p := by
  have h1 : s.scale ≠ 1 := by rw [h]; decide
  by_cases haa : s.aa = 1
  · exact ⟨smooth (buildStretch g), by rw [length_smooth, length_buildStretch],
      fun c p => by rw [sentGlyph, if_neg h1, if_pos haa]⟩
  · exact ⟨buildStretch g, length_buildStretch g, fun c p => by rw [sentGlyph, if_neg h1, if_neg haa]⟩

/-- Settles O49: without a wrap the glyph is the whole body. -/
theorem glyphByteCounts : Obligations.GlyphByteCounts := by
  intro s t c hf hv hd hp hg hcol h
  obtain ⟨g, ⟨hlength, -⟩, hexec⟩ := putcPrintsAtTheCursor s c hf hv hd hp hg hcol
  rw [hexec] at h
  injection h with h
  subst h
  refine ⟨sentTransaction (sentGlyph s g s.col.toNat s.row.toNat), rfl, fun h1 => ?_, ?_, ?_⟩
  · rw [sentGlyph, if_pos h1, ← hlength]
    exact (bodyCounts_sentGlyph1x ..).txn
  · rintro ⟨h2, hrow⟩
    obtain ⟨buf, hbuf, hsent⟩ := sentGlyph_scale2 h2 g
    rw [hsent]
    exact (bodyCounts_sentGlyph2x hbuf _ _ hrow).txn
  · rintro ⟨h2, hrow⟩
    obtain ⟨buf, hbuf, hsent⟩ := sentGlyph_scale2 h2 g
    rw [hsent]
    exact (bodyCounts_sentGlyph2x_clipped hbuf _ _ hrow).txn

end Sys2Proof.Machine
end

section
/-! Characters in turn (41_text.md R172, R173): a line of glyphs moves the cursor right by their advances and one
glyph past it wraps; line feeds move it down by the scale and one past the last line clears. -/

namespace Sys2Proof.Machine

/-! ### Requests in turn -/

theorem execAll_cons_of_next {i : Instr} {s t : State} (is : List Instr) (h : exec i s = .next t) :
    execAll (i :: is) s = execAll is t := by
  rw [execAll, h]

theorem execAll_singleton {i : Instr} {s t : State} (h : exec i s = .next t) : execAll [i] s = .next t :=
  execAll_cons_of_next [] h

theorem execAll_append_of_next {is : List Instr} (js : List Instr) {s t : State} (h : execAll is s = .next t) :
    execAll (is ++ js) s = execAll js t := by
  induction is generalizing s with
  | nil =>
    rw [execAll] at h
    injection h with h
    rw [List.nil_append, h]
  | cons i is ih =>
    obtain ⟨u, hu⟩ := exec_total i s
    rw [execAll_cons_of_next is hu] at h
    rw [List.cons_append, execAll_cons_of_next _ hu, ih h]

/-! ### Moves of the cursor -/

/-- `t` has the fault register, the text settings, the font memory and the parameters of `s`: whatever a character
reads but the cursor. -/
structure SameText (s t : State) : Prop where
  fault     : t.fault = s.fault
  fontValid : t.fontValid = s.fontValid
  scale     : t.scale = s.scale
  fontBase  : t.fontBase = s.fontBase
  fw        : t.fw = s.fw
  ffirst    : t.ffirst = s.ffirst
  flast     : t.flast = s.flast
  fm        : t.fm = s.fm
  params    : t.params = s.params

theorem SameText.refl (s : State) : SameText s s := by constructor <;> rfl

theorem SameText.trans {s t u : State} (h : SameText s t) (k : SameText t u) : SameText s u where
  fault := k.fault.trans h.fault
  fontValid := k.fontValid.trans h.fontValid
  scale := k.scale.trans h.scale
  fontBase := k.fontBase.trans h.fontBase
  fw := k.fw.trans h.fw
  ffirst := k.ffirst.trans h.ffirst
  flast := k.flast.trans h.flast
  fm := k.fm.trans h.fm
  params := k.params.trans h.params

theorem sameText_afterSending (s : State) (x : BitVec 16) (y : BitVec 8) (events : List BusEvent) :
    SameText s ((s.setCursor x y).afterSending events) := by
  constructor <;> rfl

theorem sameText_afterSilence (s : State) (x : BitVec 16) (y : BitVec 8) :
    SameText s (s.setCursor x y).afterSilence := by
  constructor <;> rfl

theorem SameText.glyphAdvance {s t : State} (h : SameText s t) :
    Machine.glyphAdvance t = Machine.glyphAdvance s := by
  rw [Machine.glyphAdvance, Machine.glyphAdvance, h.fw, h.scale]

/-- From `s` to `t` the cursor moves right by `cols` and down by `rows`, and the text settings stay. -/
structure Moved (s t : State) (cols rows : Nat) : Prop where
  text  : SameText s t
  col   : t.col.toNat = s.col.toNat + cols
  row   : t.row.toNat = s.row.toNat + rows
  trace : ∃ events, t.trace = s.trace ++ events

theorem Moved.refl (s : State) : Moved s s 0 0 := ⟨.refl s, rfl, rfl, [], (List.append_nil _).symm⟩

theorem Moved.trans {s t u : State} {cols rows cols' rows' : Nat} (h : Moved s t cols rows)
    (k : Moved t u cols' rows') : Moved s u (cols + cols') (rows + rows') where
  text := h.text.trans k.text
  col := by rw [k.col, h.col, Nat.add_assoc]
  row := by rw [k.row, h.row, Nat.add_assoc]
  trace := by
    obtain ⟨xs, hxs⟩ := h.trace
    obtain ⟨ys, hys⟩ := k.trace
    exact ⟨xs ++ ys, by rw [hys, hxs, List.append_assoc]⟩

/-! ### Line feeds (R173) -/

/-- A line feed above the last line moves down by the scale, with a reposition or without. -/
theorem exec_lineFeed_down {s : State} (hf : s.fault = 0) (hv : s.fontValid = 1)
    (hrow : s.row.toNat + s.scale.toNat < 8) :
    ∃ t, exec (.putc 0x0A) s = .next t ∧ Moved s t 0 s.scale.toNat := by
  have hnext : (BitVec.ofNat 8 (s.row.toNat + s.scale.toNat)).toNat = s.row.toNat + s.scale.toNat := by
    rw [BitVec.toNat_ofNat]
    omega
  obtain ⟨hshown, hdropped, -⟩ := lineFeedMovesDownOrClears s hf hv
  obtain hcol | hcol := Nat.lt_or_ge s.col.toNat 192
  · exact ⟨_, hshown ⟨hrow, hcol⟩, sameText_afterSending s s.col _ _, rfl, hnext, _, rfl⟩
  · exact ⟨_, hdropped ⟨hrow, hcol⟩, sameText_afterSilence s s.col _, rfl, hnext, [], (List.append_nil _).symm⟩

theorem execAll_lineFeeds_down (n : Nat) {s : State} (hf : s.fault = 0) (hv : s.fontValid = 1)
    (hrow : s.row.toNat + n * s.scale.toNat < 8) :
    ∃ t, execAll (List.replicate n (.putc 0x0A)) s = .next t ∧ Moved s t 0 (n * s.scale.toNat) := by
  induction n generalizing s with
  | zero => exact ⟨s, rfl, by simpa using Moved.refl s⟩
  | succ n ih =>
    rw [Nat.succ_mul] at hrow
    obtain ⟨t, ht, hst⟩ := exec_lineFeed_down hf hv (by omega)
    obtain ⟨u, hu, htu⟩ := ih (hst.text.fault.trans hf) (hst.text.fontValid.trans hv)
      (by rw [hst.row, hst.text.scale]; omega)
    refine ⟨u, by rw [List.replicate_succ, execAll_cons_of_next _ ht, hu], ?_⟩
    have hsu := hst.trans htu
    rwa [hst.text.scale, Nat.add_comm s.scale.toNat, ← Nat.succ_mul] at hsu

/-- Settles O52: the line feeds above the last line move down, and the next one has no line left. -/
theorem lineFeedsOverflowIntoAClear : Obligations.LineFeedsOverflowIntoAClear := by
  intro s n hf hv hrow hn
  have hlast : n * s.scale.toNat < 8 ∧ 8 ≤ n * s.scale.toNat + s.scale.toNat := by
    obtain ⟨hscale, rfl⟩ | ⟨hscale, rfl⟩ := hn
    · rw [hscale]
      decide
    · rw [hscale]
      decide
  have htop : s.row.toNat = 0 := by rw [hrow]; rfl
  obtain ⟨t, ht, hst⟩ := execAll_lineFeeds_down n hf hv (by omega)
  have hbottom : t.row.toNat = n * s.scale.toNat := by rw [hst.row, htop, Nat.zero_add]
  obtain ⟨-, -, hclear⟩ :=
    lineFeedMovesDownOrClears t (hst.text.fault.trans hf) (hst.text.fontValid.trans hv)
  rw [hbottom, hst.text.scale, hst.text.params] at hclear
  exact ⟨t, _, ht, hbottom, BitVec.eq_of_toNat_eq hst.col, hclear hlast.2, rfl, rfl, rfl⟩

/-! ### A line of glyphs (R172) -/

/-- Every one of the codes can be drawn in the state `s`. -/
structure CanDraw (s : State) (codes : List Byte) : Prop where
  fault : s.fault = 0
  font  : s.fontValid = 1
  scale : drawableScale s
  codes : ∀ c ∈ codes, printableCode s c ∧ glyphPresent s c

theorem CanDraw.sameText {s t : State} {codes : List Byte} (h : CanDraw s codes) (k : SameText s t) :
    CanDraw t codes where
  fault := k.fault.trans h.fault
  font := k.fontValid.trans h.font
  scale := by
    rw [drawableScale, k.scale, k.fw]
    exact h.scale
  codes := by
    simp only [printableCode, glyphPresent, glyphStart, k.ffirst, k.flast, k.fw, k.fm, k.fontBase]
    exact h.codes

theorem CanDraw.of_subset {s : State} {codes codes' : List Byte} (h : CanDraw s codes) (k : codes' ⊆ codes) :
    CanDraw s codes' :=
  ⟨h.fault, h.font, h.scale, fun c hc => h.codes c (k hc)⟩

theorem glyphAdvance_drawable {s : State} (h : drawableScale s) : 0 < glyphAdvance s ∧ glyphAdvance s ≤ 256 := by
  have hfw := s.fw.isLt
  obtain h1 | ⟨h2, h5⟩ := h
  · rw [glyphAdvance_scale1 h1]
    omega
  · rw [glyphAdvance_scale2 h2, h5]
    decide

/-- A glyph left of the right edge moves the cursor right by one advance. -/
theorem exec_putc_right {s : State} {c : Byte} (h : CanDraw s [c]) (hcol : s.col.toNat < 192) :
    ∃ t, exec (.putc c) s = .next t ∧ Moved s t (glyphAdvance s) 0 := by
  obtain ⟨hp, hg⟩ := h.codes c (List.mem_singleton_self c)
  obtain ⟨-, hadv⟩ := glyphAdvance_drawable h.scale
  obtain ⟨g, -, hexec⟩ := putcPrintsAtTheCursor s c h.fault h.font h.scale hp hg hcol
  have hnext : (BitVec.ofNat 16 (s.col.toNat + glyphAdvance s)).toNat = s.col.toNat + glyphAdvance s := by
    rw [BitVec.toNat_ofNat]
    omega
  exact ⟨_, hexec, sameText_afterSending s _ s.row _, hnext, rfl, _, rfl⟩

/-- Glyphs that all begin left of the right edge move the cursor right by their advances. -/
theorem execAll_putc_right {s : State} {codes : List Byte} (h : CanDraw s codes)
    (hcol : s.col.toNat + codes.length * glyphAdvance s < 192 + glyphAdvance s) :
    ∃ t, execAll (codes.map .putc) s = .next t ∧ Moved s t (codes.length * glyphAdvance s) 0 := by
  induction codes generalizing s with
  | nil => exact ⟨s, rfl, by simpa using Moved.refl s⟩
  | cons c cs ih =>
    rw [List.length_cons, Nat.succ_mul] at hcol ⊢
    obtain ⟨t, ht, hst⟩ := exec_putc_right (h.of_subset (List.cons_subset_cons c (List.nil_subset cs))) (by omega)
    have hadv := hst.text.glyphAdvance
    obtain ⟨u, hu, htu⟩ := ih ((h.of_subset (List.subset_cons_self c cs)).sameText hst.text)
      (by rw [hst.col, hadv]; omega)
    refine ⟨u, by rw [List.map_cons, execAll_cons_of_next _ ht, hu], ?_⟩
    have hsu := hst.trans htu
    rwa [hadv, Nat.add_comm (glyphAdvance s)] at hsu

/-- A glyph at or past the right edge goes to column 0 of the next line, or of the cleared display. -/
theorem exec_putc_wrap {s : State} {c : Byte} (h : CanDraw s [c]) (hcol : 192 ≤ s.col.toNat) :
    ∃ t, exec (.putc c) s = .next t ∧ t.fault = 0 ∧ t.col.toNat = glyphAdvance s ∧
      (s.row.toNat + s.scale.toNat < 8 → t.row.toNat = s.row.toNat + s.scale.toNat) ∧
      (8 ≤ s.row.toNat + s.scale.toNat → t.row = 0 ∧
        ∃ before after, t.trace = s.trace ++ before ++ sentClear s.params.regcode ++ after) := by
  obtain ⟨hp, hg⟩ := h.codes c (List.mem_singleton_self c)
  obtain ⟨-, hadv⟩ := glyphAdvance_drawable h.scale
  obtain ⟨g, -, hdown, hclear⟩ := putcWrapsThenPrints s c h.fault h.font h.scale hp hg hcol
  have hfirst : (BitVec.ofNat 16 (glyphAdvance s)).toNat = glyphAdvance s := by
    rw [BitVec.toNat_ofNat]
    omega
  obtain hrow | hrow := Nat.lt_or_ge (s.row.toNat + s.scale.toNat) 8
  · refine ⟨_, hdown hrow, h.fault, hfirst, fun _ => ?_, fun hge => absurd hrow (Nat.not_lt.mpr hge)⟩
    change (BitVec.ofNat 8 (s.row.toNat + s.scale.toNat)).toNat = _
    rw [BitVec.toNat_ofNat]
    omega
  · refine ⟨_, hclear hrow, h.fault, hfirst, fun hlt => absurd hrow (Nat.not_le.mpr hlt), fun _ =>
      ⟨rfl, [.txnBegin, .csAssert],
        sentCursor s.params.regcode 0 0 ++ sentGlyph s g 0 0 ++ [.csDeassert, .txnEnd], ?_⟩⟩
    simp [State.afterSending, sentTransaction]

/-- The least number of advances that reaches the right edge. -/
theorem full_line {a : Nat} (h : 0 < a) :
    192 ≤ (192 + a - 1) / a * a ∧ (192 + a - 1) / a * a < 192 + a := by
  have hdiv := Nat.div_add_mod' (192 + a - 1) a
  have hmod := Nat.mod_lt (192 + a - 1) h
  omega

/-- Settles O51: all but the last code begin left of the right edge, and the last one wraps. -/
theorem oneGlyphPastAFullLineWraps : Obligations.OneGlyphPastAFullLineWraps := by
  intro s codes hf hv hd hcodes hhome hlength
  have h : CanDraw s codes := ⟨hf, hv, hd, hcodes⟩
  obtain ⟨hpos, -⟩ := glyphAdvance_drawable hd
  obtain ⟨hreach, hline⟩ := full_line hpos
  obtain rfl | ⟨line, last, rfl⟩ := List.eq_nil_or_concat' codes
  · exact absurd hlength (by simp)
  rw [List.length_append, List.length_singleton, Nat.add_right_cancel_iff] at hlength
  rw [← hlength] at hreach hline
  have hcol : s.col.toNat = 0 := by rw [hhome]; rfl
  obtain ⟨t, ht, hst⟩ := execAll_putc_right (h.of_subset (List.subset_append_left line [last])) (by omega)
  obtain ⟨u, hu, hfault, hfirst, hdown, hclear⟩ := exec_putc_wrap
    ((h.of_subset (List.subset_append_right line [last])).sameText hst.text) (by rw [hst.col]; omega)
  rw [hst.row, hst.text.scale] at hdown hclear
  refine ⟨u, ?_, hfault, hfirst.trans hst.text.glyphAdvance, hdown, fun hrow => ?_⟩
  · rw [List.map_append, execAll_append_of_next _ ht]
    exact execAll_singleton hu
  · obtain ⟨htop, before, after, htrace⟩ := hclear hrow
    obtain ⟨events, hevents⟩ := hst.trace
    exact ⟨htop, events ++ before, after, by
      rw [htrace, hevents, hst.text.params, List.append_assoc s.trace]⟩

end Sys2Proof.Machine
end

section
/-! Bit-stretch (42_stretch_aa.md R200 to R203): bit `k` of a stretched byte is bit `k / 2` of the byte, and
bit `i` of a decimated column is bit `2i` of the column; the claims on `stretch` follow bit by bit. -/

namespace Sys2Proof.Machine

/-! ### Sums of digits -/

/-- The number whose `n` base-`2^w` digits are `d 0, d 1, …`, the shape of the sums of R200 and R202. -/
def digitSum (w : Nat) (d : Nat → Nat) (n : Nat) : Nat := ((List.range n).map fun i => d i * 2 ^ (w * i)).sum

theorem digitSum_succ (w : Nat) (d : Nat → Nat) (n : Nat) :
    digitSum w d (n + 1) = 2 ^ (w * n) * d n + digitSum w d n := by
  simp [digitSum, List.range_succ, Nat.add_comm, Nat.mul_comm]

theorem digitSum_lt {w : Nat} {d : Nat → Nat} (hd : ∀ i, d i < 2 ^ w) (n : Nat) :
    digitSum w d n < 2 ^ (w * n) := by
  induction n with
  | zero => exact Nat.one_pos
  | succ n ih =>
    calc digitSum w d (n + 1)
        = 2 ^ (w * n) * d n + digitSum w d n := digitSum_succ w d n
      _ < 2 ^ (w * n) * (d n + 1) := by rw [Nat.mul_succ]; exact Nat.add_lt_add_left ih _
      _ ≤ 2 ^ (w * n) * 2 ^ w := Nat.mul_le_mul_left _ (hd n)
      _ = 2 ^ (w * (n + 1)) := by rw [← Nat.pow_add, Nat.mul_succ]

/-- Bit `k` of the sum lies in digit `k / w`. -/
theorem testBit_digitSum {w : Nat} {d : Nat → Nat} (hd : ∀ i, d i < 2 ^ w) (n k : Nat) (hk : k < w * n) :
    (digitSum w d n).testBit k = (d (k / w)).testBit (k % w) := by
  induction n with
  | zero => exact absurd hk (Nat.not_lt_zero k)
  | succ n ih =>
    rw [digitSum_succ, Nat.testBit_two_pow_mul_add _ (digitSum_lt hd n)]
    obtain hlow | htop := Nat.lt_or_ge k (w * n)
    · rw [if_pos hlow, ih hlow]
    · rw [Nat.mul_succ] at hk
      have hdiv : k / w = n := Nat.div_eq_of_lt_le (by rwa [Nat.mul_comm]) (by rwa [Nat.succ_mul, Nat.mul_comm])
      rw [if_neg (Nat.not_lt.mpr htop), Nat.mod_eq_sub_mul_div, hdiv]

/-! ### Bits of the two maps -/

theorem stretch_eq_digitSum (b : Byte) :
    stretch b = BitVec.ofNat 16 (digitSum 2 (fun i => 3 * (b.getLsbD i).toNat) 8) := by
  have hterm (i : Nat) : (b.getLsbD i).toNat * (2 ^ (2 * i) + 2 ^ (2 * i + 1)) =
      3 * (b.getLsbD i).toNat * 2 ^ (2 * i) := by ring
  simp only [stretch, digitSum, hterm]

theorem testBit_three_mul_toNat (b : Bool) {i : Nat} (hi : i < 2) : (3 * b.toNat).testBit i = b := by
  interval_cases i <;> cases b <;> rfl

/-- Each bit of the byte stands at two adjacent bits of the stretched column (R200). -/
theorem getLsbD_stretch (b : Byte) (k : Nat) : (stretch b).getLsbD k = b.getLsbD (k / 2) := by
  obtain hk | hk := Nat.lt_or_ge k 16
  · have hdigit (i : Nat) : 3 * (b.getLsbD i).toNat < 2 ^ 2 := by cases b.getLsbD i <;> decide
    rw [stretch_eq_digitSum, BitVec.getLsbD_ofNat, testBit_digitSum hdigit 8 k hk,
      testBit_three_mul_toNat _ (Nat.mod_lt k Nat.two_pos), decide_eq_true hk, Bool.true_and]
  · rw [BitVec.getLsbD_of_ge _ _ hk, BitVec.getLsbD_of_ge _ _ (by omega)]

theorem decimate_eq_digitSum (u : Column) :
    decimate u = BitVec.ofNat 8 (digitSum 1 (fun i => (u.getLsbD (2 * i)).toNat) 8) := by
  simp only [decimate, digitSum, Nat.one_mul]

theorem getLsbD_decimate (u : Column) {i : Nat} (hi : i < 8) : (decimate u).getLsbD i = u.getLsbD (2 * i) := by
  have hdigit (i : Nat) : (u.getLsbD (2 * i)).toNat < 2 ^ 1 := Bool.toNat_lt _
  rw [decimate_eq_digitSum, BitVec.getLsbD_ofNat, testBit_digitSum hdigit 8 i hi, Nat.div_one, Nat.mod_one,
    Nat.testBit_bool_toNat, decide_eq_true hi]
  rfl

theorem getLsbD_lowByte (u : Column) {k : Nat} (hk : k < 8) : (lowByte u).getLsbD k = u.getLsbD k := by
  rw [lowByte, BitVec.getLsbD_extractLsb', decide_eq_true hk, Bool.true_and, Nat.zero_add]

theorem getLsbD_highByte (u : Column) {k : Nat} (hk : k < 8) : (highByte u).getLsbD k = u.getLsbD (8 + k) := by
  rw [highByte, BitVec.getLsbD_extractLsb', decide_eq_true hk, Bool.true_and]

/-! ### The claims on `stretch` -/

/-- The four steps of R201 move bit `k / 2` to bit `k`. -/
theorem getLsbD_stretchFast (b : Byte) {k : Nat} (hk : k < 16) :
    (stretchFast b).getLsbD k = b.getLsbD (k / 2) := by
  interval_cases k <;> simp [stretchFast]

/-- Settles O53: both forms have bit `k / 2` of the byte at bit `k`. -/
theorem stretchDoublesEachBit : Obligations.StretchDoublesEachBit := by
  intro b
  refine ⟨BitVec.eq_of_getLsbD_eq fun k hk => ?_, fun i _ => ⟨?_, ?_⟩⟩
  · rw [getLsbD_stretchFast b hk, getLsbD_stretch]
  · rw [getLsbD_stretch, Nat.mul_div_cancel_left i Nat.two_pos]
  · rw [getLsbD_stretch, show (2 * i + 1) / 2 = i by omega]

theorem decimate_stretch (b : Byte) : decimate (stretch b) = b :=
  BitVec.eq_of_getLsbD_eq fun i hi => by
    rw [getLsbD_decimate _ hi, getLsbD_stretch, Nat.mul_div_cancel_left i Nat.two_pos]

/-- The odd bits give the byte back as well (R202). -/
theorem decimate_stretch_shift (b : Byte) : decimate (stretch b >>> 1) = b :=
  BitVec.eq_of_getLsbD_eq fun i hi => by
    rw [getLsbD_decimate _ hi, BitVec.getLsbD_ushiftRight, getLsbD_stretch, show (1 + 2 * i) / 2 = i by omega]

theorem stretch_injective {b c : Byte} (h : stretch b = stretch c) : b = c := by
  rw [← decimate_stretch b, h, decimate_stretch]

theorem getLsbD_stretch_shift_odd (b : Byte) {k : Nat} (hk : k < 16) (hodd : k % 2 = 1) :
    (stretch b <<< 1).getLsbD k = (stretch b).getLsbD k := by
  rw [BitVec.getLsbD_shiftLeft, getLsbD_stretch, getLsbD_stretch, show (k - 1) / 2 = k / 2 by omega,
    decide_eq_true hk, decide_eq_false (by omega : ¬ k < 1)]
  rfl

/-- On the odd bits a stretched column is its own shift by one. -/
theorem stretch_and_of_odd (b : Byte) {m : Column} (hm : ∀ k < 16, m.getLsbD k = decide (k % 2 = 1)) :
    stretch b &&& m = stretch b <<< 1 &&& m := by
  refine BitVec.eq_of_getLsbD_eq fun k hk => ?_
  rw [BitVec.getLsbD_and, BitVec.getLsbD_and, hm k hk]
  by_cases hodd : k % 2 = 1
  · rw [getLsbD_stretch_shift_odd b hk hodd]
  · rw [decide_eq_false hodd, Bool.and_false, Bool.and_false]

/-- The odd bits are the even bits shifted (R202). -/
theorem stretch_and_oddMask (b : Byte) : stretch b &&& 0xAAAA = (stretch b &&& 0x5555) <<< 1 :=
  calc stretch b &&& 0xAAAA
      = stretch b <<< 1 &&& 0xAAAA := stretch_and_of_odd b (by decide)
    _ = stretch b <<< 1 &&& (0x5555 : Column) <<< 1 := congrArg (stretch b <<< 1 &&& ·) (by decide)
    _ = (stretch b &&& 0x5555) <<< 1 := (BitVec.shiftLeft_and_distrib ..).symm

/-- Bytes that agree under a mask agree at each bit of the mask. -/
theorem getLsbD_eq_of_and_eq {b c m : Byte} (h : b &&& m = c &&& m) {i : Nat} (hi : m.getLsbD i = true) :
    b.getLsbD i = c.getLsbD i := by
  simpa [hi] using congrArg (·.getLsbD i) h

theorem lowByte_stretch_congr {b c : Byte} (h : b &&& 0x0F = c &&& 0x0F) :
    lowByte (stretch b) = lowByte (stretch c) := by
  have hmask : ∀ k < 8, (0x0F : Byte).getLsbD (k / 2) = true := by decide
  refine BitVec.eq_of_getLsbD_eq fun k hk => ?_
  rw [getLsbD_lowByte _ hk, getLsbD_lowByte _ hk, getLsbD_stretch, getLsbD_stretch,
    getLsbD_eq_of_and_eq h (hmask k hk)]

theorem highByte_stretch_congr {b c : Byte} (h : b &&& 0xF0 = c &&& 0xF0) :
    highByte (stretch b) = highByte (stretch c) := by
  have hmask : ∀ k < 8, (0xF0 : Byte).getLsbD ((8 + k) / 2) = true := by decide
  refine BitVec.eq_of_getLsbD_eq fun k hk => ?_
  rw [getLsbD_highByte _ hk, getLsbD_highByte _ hk, getLsbD_stretch, getLsbD_stretch,
    getLsbD_eq_of_and_eq h (hmask k hk)]

/-- Reading each entry twice counts it twice. -/
theorem countP_range_half (f : Nat → Bool) (n : Nat) :
    ((List.range (2 * n)).countP fun k => f (k / 2)) = 2 * (List.range n).countP f := by
  induction n with
  | zero => rfl
  | succ n ih =>
    rw [Nat.mul_succ, List.range_succ, List.range_succ, List.range_succ, List.countP_append,
      List.countP_append, List.countP_append, ih]
    simp only [List.countP_singleton, show 2 * n / 2 = n by omega, show (2 * n + 1) / 2 = n by omega]
    omega

/-- Settles O54: each property is read off the bits of the stretched column. -/
theorem stretchCanBeUndone : Obligations.StretchCanBeUndone := by
  intro b c
  refine ⟨decimate_stretch b, decimate_stretch_shift b, stretch_injective, stretch_and_oddMask b,
    lowByte_stretch_congr, highByte_stretch_congr, ?_⟩
  simp only [getLsbD_stretch]
  exact countP_range_half b.getLsbD 8

/-! ### The stretch buffer -/

theorem stretch_zero : stretch 0 = 0 := by decide

/-- The top half holds the low bytes (R203). -/
theorem getElem?_buildStretch_top (g : List Byte) {x : Nat} (hx : x < 12) :
    (buildStretch g)[x]? = some (lowByte (stretch (sourceColumn g (x / 2)))) := by
  rw [buildStretch, List.getElem?_append_left (by simpa using hx), List.getElem?_map, List.getElem?_range hx]
  rfl

/-- The bottom half holds the high bytes (R203). -/
theorem getElem?_buildStretch_bottom (g : List Byte) {x : Nat} (hx : x < 12) :
    (buildStretch g)[x + 12]? = some (highByte (stretch (sourceColumn g (x / 2)))) := by
  rw [buildStretch, List.getElem?_append_right (by simp), List.getElem?_map, List.length_map,
    List.length_range, Nat.add_sub_cancel, List.getElem?_range hx]
  rfl

theorem sourceColumn_succ {g : List Byte} {k : Nat} {b : Byte} (h : g[k]? = some b) :
    sourceColumn g (k + 1) = b := by
  rw [sourceColumn, List.getD_cons_succ, List.getD_eq_getElem?_getD, h]
  rfl

/-- Settles O55: raw column `x` holds source column `x / 2`. -/
theorem buildStretchDoublesTheColumns : Obligations.BuildStretchDoublesTheColumns := by
  intro g hg
  refine ⟨length_buildStretch g, fun x hx => ?_, fun k b hb => ?_⟩
  · have htop {x : Nat} (hx : x < 2) : (buildStretch g)[x]? = some 0 := by
      rw [getElem?_buildStretch_top g (by omega), Nat.div_eq_of_lt hx]
      exact congrArg (some ∘ lowByte) stretch_zero
    have hbottom {x : Nat} (hx : x < 2) : (buildStretch g)[x + 12]? = some 0 := by
      rw [getElem?_buildStretch_bottom g (by omega), Nat.div_eq_of_lt hx]
      exact congrArg (some ∘ highByte) stretch_zero
    simp only [List.mem_cons, List.not_mem_nil, or_false] at hx
    obtain rfl | rfl | rfl | rfl := hx
    · exact htop (by decide)
    · exact htop (by decide)
    · exact hbottom (x := 0) (by decide)
    · exact hbottom (x := 1) (by decide)
  · obtain ⟨hk, -⟩ := List.getElem?_eq_some_iff.mp hb
    have htop {x : Nat} (hx : x / 2 = k + 1) : (buildStretch g)[x]? = some (lowByte (stretch b)) := by
      rw [getElem?_buildStretch_top g (by omega), hx, sourceColumn_succ hb]
    have hbottom {x : Nat} (hx : x / 2 = k + 1) :
        (buildStretch g)[x + 12]? = some (highByte (stretch b)) := by
      rw [getElem?_buildStretch_bottom g (by omega), hx, sourceColumn_succ hb]
    exact ⟨htop (by omega), htop (by omega), hbottom (by omega), hbottom (by omega)⟩

end Sys2Proof.Machine
end

section
/-! Smoothing (42_stretch_aa.md R204 to R206): what a window and a pair of raw columns add, bit by bit, and what
the whole pass adds to one raw column. -/

namespace Sys2Proof.Machine

/-! ### Windows -/

theorem getLsbD_zeroColumn (k : Nat) : (0 : Column).getLsbD k = false := BitVec.getLsbD_zero

/-- Bits `o` to `o + 3` of `u` change value once, halfway: to set if `hi`, to clear otherwise. -/
def Steps (u : Column) (o : Nat) (hi : Bool) : Prop :=
  u.getLsbD o = !hi ∧ u.getLsbD (o + 1) = !hi ∧ u.getLsbD (o + 2) = hi ∧ u.getLsbD (o + 3) = hi

theorem window_eq_iff (u : Column) (o : Nat) (w : BitVec 4) :
    window u o = w ↔ u.getLsbD o = w.getLsbD 0 ∧ u.getLsbD (o + 1) = w.getLsbD 1 ∧
      u.getLsbD (o + 2) = w.getLsbD 2 ∧ u.getLsbD (o + 3) = w.getLsbD 3 := by
  have hbit {k : Nat} (hk : k < 4) : (window u o).getLsbD k = u.getLsbD (o + k) := by
    rw [window, BitVec.getLsbD_extractLsb', decide_eq_true hk, Bool.true_and]
  refine ⟨?_, fun ⟨h0, h1, h2, h3⟩ => BitVec.eq_of_getLsbD_eq fun k hk => ?_⟩
  · rintro rfl
    exact ⟨(hbit (k := 0) (by decide)).symm, (hbit (by decide)).symm, (hbit (by decide)).symm,
      (hbit (by decide)).symm⟩
  · rw [hbit hk]
    interval_cases k
    · exact h0
    · exact h1
    · exact h2
    · exact h3

theorem window_eq_1100_iff (u : Column) (o : Nat) : window u o = 0b1100 ↔ Steps u o true :=
  window_eq_iff u o 0b1100

theorem window_eq_0011_iff (u : Column) (o : Nat) : window u o = 0b0011 ↔ Steps u o false :=
  window_eq_iff u o 0b0011

theorem not_steps_both (u : Column) (o : Nat) : ¬ (Steps u o true ∧ Steps u o false) := by
  rintro ⟨⟨h, -⟩, ⟨k, -⟩⟩
  exact absurd (h.symm.trans k) (by decide)

/-- Window `1100` beside `0011` adds row `o + 1` to the left column and row `o + 2` to the right (R205). -/
theorem windowAdds_of_up {l r : Column} {o : Nat} (hl : Steps l o true) (hr : Steps r o false) :
    windowAdds l r o = (BitVec.ofNat 16 (2 ^ (o + 1)), BitVec.ofNat 16 (2 ^ (o + 2))) :=
  if_pos ⟨(window_eq_1100_iff l o).mpr hl, (window_eq_0011_iff r o).mpr hr⟩

/-- The mirrored windows add the mirrored bits (R205). -/
theorem windowAdds_of_down {l r : Column} {o : Nat} (hl : Steps l o false) (hr : Steps r o true) :
    windowAdds l r o = (BitVec.ofNat 16 (2 ^ (o + 2)), BitVec.ofNat 16 (2 ^ (o + 1))) := by
  have hup : ¬ (window l o = 0b1100 ∧ window r o = 0b0011) := fun ⟨h, _⟩ =>
    not_steps_both l o ⟨(window_eq_1100_iff l o).mp h, hl⟩
  rw [windowAdds, if_neg hup]
  exact if_pos ⟨(window_eq_0011_iff l o).mpr hl, (window_eq_1100_iff r o).mpr hr⟩

theorem windowAdds_of_flat {l r : Column} {o : Nat} (hup : ¬ (Steps l o true ∧ Steps r o false))
    (hdown : ¬ (Steps l o false ∧ Steps r o true)) : windowAdds l r o = (0, 0) := by
  rw [← window_eq_1100_iff, ← window_eq_0011_iff] at hup hdown
  rw [windowAdds, if_neg hup, if_neg hdown]

/-- What a window adds to one side is what the mirrored window adds to the other. -/
theorem windowAdds_swap (l r : Column) (o : Nat) : (windowAdds l r o).2 = (windowAdds r l o).1 := by
  by_cases hup : Steps l o true ∧ Steps r o false
  · rw [windowAdds_of_up hup.1 hup.2, windowAdds_of_down hup.2 hup.1]
  · by_cases hdown : Steps l o false ∧ Steps r o true
    · rw [windowAdds_of_down hdown.1 hdown.2, windowAdds_of_up hdown.2 hdown.1]
    · rw [windowAdds_of_flat hup hdown, windowAdds_of_flat (fun h => hdown h.symm) (fun h => hup h.symm)]

theorem getLsbD_ofNat_two_pow {n : Nat} (hn : n < 16) (k : Nat) :
    (BitVec.ofNat 16 (2 ^ n)).getLsbD k = true ↔ k = n := by
  rw [BitVec.getLsbD_ofNat, Nat.testBit_two_pow, Bool.and_eq_true, decide_eq_true_iff, decide_eq_true_iff]
  omega

/-- Bit `k` of what the window at `o` adds to the left column (R205). -/
theorem getLsbD_windowAdds_left (l r : Column) {o : Nat} (ho : o ≤ 10) (k : Nat) :
    (windowAdds l r o).1.getLsbD k = true ↔
      (k = o + 1 ∧ Steps l o true ∧ Steps r o false) ∨ (k = o + 2 ∧ Steps l o false ∧ Steps r o true) := by
  by_cases hup : Steps l o true ∧ Steps r o false
  · have hdown : ¬ (Steps l o false ∧ Steps r o true) := fun h => not_steps_both l o ⟨hup.1, h.1⟩
    rw [windowAdds_of_up hup.1 hup.2, getLsbD_ofNat_two_pow (by omega)]
    simp only [hup, hdown, and_self, and_true, and_false, or_false]
  · by_cases hdown : Steps l o false ∧ Steps r o true
    · rw [windowAdds_of_down hdown.1 hdown.2, getLsbD_ofNat_two_pow (by omega)]
      simp only [hup, hdown, and_self, and_true, and_false, false_or]
    · rw [windowAdds_of_flat hup hdown]
      simp only [hup, hdown, and_false, or_false, getLsbD_zeroColumn, Bool.false_eq_true]

/-! ### Pairs -/

theorem foldl_windowAdds (l r : Column) (os : List Nat) (acc : Column × Column) :
    os.foldl (fun acc o => (acc.1 ||| (windowAdds l r o).1, acc.2 ||| (windowAdds l r o).2)) acc =
      (os.foldl (fun u o => u ||| (windowAdds l r o).1) acc.1,
        os.foldl (fun u o => u ||| (windowAdds r l o).1) acc.2) := by
  induction os generalizing acc with
  | nil => rfl
  | cons o os ih =>
    rw [List.foldl_cons, ih, windowAdds_swap]
    rfl

theorem getLsbD_foldl_or {w : Nat} (f : Nat → BitVec w) (os : List Nat) (u : BitVec w) (k : Nat) :
    (os.foldl (fun u o => u ||| f o) u).getLsbD k = true ↔
      u.getLsbD k = true ∨ ∃ o ∈ os, (f o).getLsbD k = true := by
  induction os generalizing u with
  | nil => simp
  | cons o os ih =>
    rw [List.foldl_cons, ih, BitVec.getLsbD_or, Bool.or_eq_true, List.exists_mem_cons_iff, or_assoc]

/-- What a pair adds on the right is what the mirrored pair adds on the left. -/
theorem pairAdds_swap (l r : Column) : (pairAdds l r).2 = (pairAdds r l).1 := by
  rw [pairAdds, pairAdds, foldl_windowAdds, foldl_windowAdds]

/-- Bit `k` of what a pair adds to its left column (R205). -/
theorem getLsbD_pairAdds_left (l r : Column) (k : Nat) :
    (pairAdds l r).1.getLsbD k = true ↔ ∃ o ∈ smoothOffsets,
      (k = o + 1 ∧ Steps l o true ∧ Steps r o false) ∨ (k = o + 2 ∧ Steps l o false ∧ Steps r o true) := by
  have hle : ∀ o ∈ smoothOffsets, o ≤ 10 := by decide
  rw [pairAdds, foldl_windowAdds, getLsbD_foldl_or, getLsbD_zeroColumn]
  simp only [Bool.false_eq_true, false_or]
  exact exists_congr fun o => and_congr_right fun ho => getLsbD_windowAdds_left l r (hle o ho) k

/-- Bit `k` of what a pair adds to its right column: the rule of the left column for the mirrored pair. -/
theorem getLsbD_pairAdds_right (l r : Column) (k : Nat) :
    (pairAdds l r).2.getLsbD k = true ↔ ∃ o ∈ smoothOffsets,
      (k = o + 2 ∧ Steps l o true ∧ Steps r o false) ∨ (k = o + 1 ∧ Steps l o false ∧ Steps r o true) := by
  rw [pairAdds_swap, getLsbD_pairAdds_left]
  simp only [or_comm, and_comm]

/-- Settles O57: the two sides of a pair follow one rule, mirrored. -/
theorem pairAddsFillTheDiagonal : Obligations.PairAddsFillTheDiagonal :=
  fun l r k => ⟨getLsbD_pairAdds_left l r k, getLsbD_pairAdds_right l r k⟩

/-- A pair adds bits 1 to 12 alone (R206). -/
theorem getLsbD_pairAdds_outer (l r : Column) {k : Nat} (hk : k = 0 ∨ 13 ≤ k) :
    (pairAdds l r).1.getLsbD k = false ∧ (pairAdds l r).2.getLsbD k = false := by
  have hle : ∀ o ∈ smoothOffsets, o ≤ 10 := by decide
  have hleft (l r : Column) : (pairAdds l r).1.getLsbD k = false := by
    rw [Bool.eq_false_iff, ne_eq, getLsbD_pairAdds_left]
    rintro ⟨o, ho, h⟩
    have hko : k = o + 1 ∨ k = o + 2 := h.imp And.left And.left
    have := hle o ho
    omega
  exact ⟨hleft l r, pairAdds_swap l r ▸ hleft r l⟩

/-- Equal columns have no step between them (R206). -/
theorem pairAdds_self (u : Column) : pairAdds u u = (0, 0) := by
  have hleft : (pairAdds u u).1 = 0 := BitVec.eq_of_getLsbD_eq fun k _ => by
    rw [getLsbD_zeroColumn, Bool.eq_false_iff, ne_eq, getLsbD_pairAdds_left]
    rintro ⟨o, -, ⟨-, hup, hdown⟩ | ⟨-, hdown, hup⟩⟩
    · exact not_steps_both u o ⟨hup, hdown⟩
    · exact not_steps_both u o ⟨hup, hdown⟩
  exact Prod.ext hleft ((pairAdds_swap u u).trans hleft)

/-! ### The pass -/

/-- What the pair that begins at raw column `x` adds to it. -/
def addsFromRight (snap : StretchBuffer) (x : Nat) : Column :=
  (pairAdds (bufferColumn snap x) (bufferColumn snap (x + 1))).1

/-- What the pair that ends at raw column `x` adds to it. -/
def addsFromLeft (snap : StretchBuffer) (x : Nat) : Column :=
  (pairAdds (bufferColumn snap (x - 1)) (bufferColumn snap x)).2

/-- What the pass adds to raw column `x` (R205): column 0 ends no pair and begins none, column 1 ends none, and
column 11 begins none. -/
def smoothAdds (snap : StretchBuffer) (x : Nat) : Column :=
  (if 1 ≤ x ∧ x ≤ 10 then addsFromRight snap x else 0) ||| (if 2 ≤ x then addsFromLeft snap x else 0)

theorem bufferColumn_smoothPair_or (snap : StretchBuffer) {live : StretchBuffer} {x : Nat}
    (hlive : live.length = 24) (hx : x < 11) {y : Nat} (hy : y < 12) :
    bufferColumn (smoothPair snap live x) y =
      bufferColumn live y ||| (if y = x then addsFromRight snap y else 0) |||
        (if y = x + 1 then addsFromLeft snap y else 0) := by
  rw [bufferColumn_smoothPair hlive hx hy]
  by_cases hleft : y = x
  · rw [if_pos hleft, if_pos hleft, if_neg (by omega), hleft]
    exact BitVec.or_zero.symm
  · rw [if_neg hleft, if_neg hleft, show bufferColumn live y ||| 0 = bufferColumn live y from BitVec.or_zero]
    by_cases hright : y = x + 1
    · rw [if_pos hright, if_pos hright, hright]
      rfl
    · rw [if_neg hright, if_neg hright]
      exact BitVec.or_zero.symm

theorem ite_or_zero (p q : Prop) [Decidable p] [Decidable q] (u : Column) :
    (if p ∨ q then u else 0) = (if p then u else 0) ||| (if q then u else 0) := by
  by_cases hp : p <;> by_cases hq : q <;> simp [hp, hq]

/-- The pass over the pairs that begin at `xs`: all its additions are judged on the snapshot. -/
theorem bufferColumn_foldl_smoothPair (snap : StretchBuffer) {xs : List Nat} (hxs : ∀ x ∈ xs, x < 11)
    {live : StretchBuffer} (hlive : live.length = 24) {y : Nat} (hy : y < 12) :
    bufferColumn (xs.foldl (smoothPair snap) live) y =
      bufferColumn live y ||| (if y ∈ xs then addsFromRight snap y else 0) |||
        (if 1 ≤ y ∧ y - 1 ∈ xs then addsFromLeft snap y else 0) := by
  induction xs generalizing live with
  | nil => simp
  | cons x xs ih =>
    have hright : 1 ≤ y ∧ (y - 1 = x ∨ y - 1 ∈ xs) ↔ y = x + 1 ∨ (1 ≤ y ∧ y - 1 ∈ xs) := by
      rw [and_or_left]
      exact or_congr_left (by omega)
    obtain ⟨hx, hrest⟩ := List.forall_mem_cons.mp hxs
    rw [List.foldl_cons, ih hrest (by rw [length_smoothPair, hlive]),
      bufferColumn_smoothPair_or snap hlive hx hy]
    simp only [List.mem_cons, hright, ite_or_zero]
    ac_rfl

/-- The smoothed column is the old one with what the pass adds to it. -/
theorem bufferColumn_smooth {v : StretchBuffer} (hv : v.length = 24) {x : Nat} (hx : x < 12) :
    bufferColumn (smooth v) x = bufferColumn v x ||| smoothAdds v x := by
  have hleft : x ∈ smoothPairs ↔ 1 ≤ x ∧ x ≤ 10 := by
    simp only [smoothPairs, List.mem_cons, List.not_mem_nil, or_false]
    omega
  have hright : 1 ≤ x ∧ x - 1 ∈ smoothPairs ↔ 2 ≤ x := by
    simp only [smoothPairs, List.mem_cons, List.not_mem_nil, or_false]
    omega
  rw [smooth, bufferColumn_foldl_smoothPair v (by decide) hv hx, smoothAdds, BitVec.or_assoc]
  simp only [hleft, hright]

/-- Settles O56, by the fold over the pairs. -/
theorem smoothDecidesOnTheSnapshot : Obligations.SmoothDecidesOnTheSnapshot := by
  intro v hv
  refine ⟨(length_smooth v).trans hv, fun x hx => ?_⟩
  rw [bufferColumn_smooth hv hx, smoothAdds, ← BitVec.or_assoc]
  rfl

/-- Raw column 0 takes part in no pair (R206). -/
theorem smoothAdds_zero (snap : StretchBuffer) : smoothAdds snap 0 = 0 := by
  rw [smoothAdds, if_neg (by decide), if_neg (by decide)]
  exact BitVec.or_zero

theorem getLsbD_smoothAdds_outer (snap : StretchBuffer) (x : Nat) {k : Nat} (hk : k = 0 ∨ 13 ≤ k) :
    (smoothAdds snap x).getLsbD k = false := by
  rw [smoothAdds, BitVec.getLsbD_or, Bool.or_eq_false_iff]
  constructor
  · split
    · exact (getLsbD_pairAdds_outer _ _ hk).1
    · exact getLsbD_zeroColumn k
  · split
    · exact (getLsbD_pairAdds_outer _ _ hk).2
    · exact getLsbD_zeroColumn k

/-! ### The bytes of the smoothed buffer -/

theorem lowByte_bufferColumn (v : StretchBuffer) (x : Nat) : lowByte (bufferColumn v x) = bufferByte v x :=
  BitVec.extractLsb'_append_eq_right

theorem highByte_bufferColumn (v : StretchBuffer) (x : Nat) :
    highByte (bufferColumn v x) = bufferByte v (x + 12) :=
  BitVec.extractLsb'_append_eq_left

/-- What the pass adds to byte `i` of the buffer. -/
def smoothByteAdds (v : StretchBuffer) (i : Nat) : Byte :=
  if i < 12 then lowByte (smoothAdds v i) else highByte (smoothAdds v (i - 12))

theorem bufferByte_smooth {v : StretchBuffer} (hv : v.length = 24) {i : Nat} (hi : i < 24) :
    bufferByte (smooth v) i = bufferByte v i ||| smoothByteAdds v i := by
  obtain hlow | hhigh := Nat.lt_or_ge i 12
  · rw [← lowByte_bufferColumn, bufferColumn_smooth hv hlow, lowByte_or, lowByte_bufferColumn, smoothByteAdds,
      if_pos hlow]
  · obtain ⟨x, rfl⟩ := Nat.exists_eq_add_of_le' hhigh
    rw [← highByte_bufferColumn, bufferColumn_smooth hv (by omega), highByte_or, highByte_bufferColumn,
      smoothByteAdds, if_neg (by omega), Nat.add_sub_cancel]

theorem smoothByteAdds_edge (v : StretchBuffer) {i : Nat} (hi : i = 0 ∨ i = 12) : smoothByteAdds v i = 0 := by
  obtain rfl | rfl := hi
  · exact congrArg lowByte (smoothAdds_zero v)
  · exact congrArg highByte (smoothAdds_zero v)

theorem or_and_self_left {w : Nat} (u a : BitVec w) : (u ||| a) &&& u = u :=
  BitVec.eq_of_getLsbD_eq fun k _ => by
    rw [BitVec.getLsbD_and, BitVec.getLsbD_or]
    exact inf_eq_right.mpr le_sup_left

theorem getLsbD_or_of_false {w : Nat} (u : BitVec w) {a : BitVec w} {k : Nat} (ha : a.getLsbD k = false) :
    (u ||| a).getLsbD k = u.getLsbD k := by
  rw [BitVec.getLsbD_or, ha, Bool.or_false]

/-- Settles O58: the pass only ORs, and what it ORs in lies in bits 1 to 12 of columns 1 to 11. -/
theorem smoothOnlyAddsInnerBits : Obligations.SmoothOnlyAddsInnerBits := by
  refine ⟨fun v hv i hi => ?_, pairAdds_self⟩
  rw [bufferByte_smooth hv hi]
  refine ⟨or_and_self_left _ _, ?_, fun hlow => getLsbD_or_of_false _ ?_, fun hhigh k h5 h8 =>
    getLsbD_or_of_false _ ?_⟩
  · intro hedge
    rw [smoothByteAdds_edge v hedge]
    exact BitVec.or_zero
  · rw [smoothByteAdds, if_pos hlow, getLsbD_lowByte _ (by decide), getLsbD_smoothAdds_outer v i (Or.inl rfl)]
  · rw [smoothByteAdds, if_neg (by omega), getLsbD_highByte _ h8, getLsbD_smoothAdds_outer v _ (by omega)]

end Sys2Proof.Machine
end

section
/-! The word a fault records (60_exceptions.md R231): an instruction that is built back to a request word, and a
decode fault, both come from that word at the port, and not from a wire byte. -/

namespace Sys2Proof

/-- A row of the wire table builds wire commands alone. -/
theorem wireTable_encode_ne_req32 (rc : RegCode) (m : Byte) :
    ∀ r ∈ wireTable rc m, ∀ v w, encode (r.build v) ≠ .req32 w := by
  simp only [wireTable, List.forall_mem_cons]
  exact ⟨nofun, nofun, nofun, nofun, nofun, nofun, nofun, nofun, nofun, nofun, List.forall_mem_nil _⟩

/-- The request word an instruction is built back to is the word at the port, which was no wire byte. -/
theorem port_eq_of_decode_ok {rc : RegCode} {m : Byte} {p : PortWord} {i : Instr} {w : Word32}
    (hd : decode rc m p = .ok i) (he : encode i = .req32 w) : p = .req32 w := by
  cases p with
  | req32 v =>
    obtain ⟨hv, -⟩ := encodeOfDecodedRequestIsTheWord rc m v i hd
    exact hv.symm.trans he
  | cmd8 b =>
    obtain ⟨r, hr, -, rfl⟩ := Machine.decodeWire_ok hd
    exact absurd he (wireTable_encode_ne_req32 rc m r hr _ w)
  | vbiasValue b =>
    cases hd
    cases he

theorem decodeWire_error {rc : RegCode} {m b : Byte} {e : DecodeError} (h : decodeWire rc m b = .error e) :
    e = .unknownWireByte := by
  unfold decodeWire at h
  split at h <;> cases h
  rfl

/-- A decode fault records the request word at the port: a wire byte raises none. -/
theorem port_eq_of_decode_error {rc : RegCode} {m : Byte} {p : PortWord} {e : DecodeError}
    {code : Machine.FaultCode} (hd : decode rc m p = .error e) (he : Machine.faultOfDecode e = some code) :
    p = .req32 (Machine.wordOfPort p) := by
  cases p with
  | req32 w => rfl
  | cmd8 b =>
    obtain rfl := decodeWire_error hd
    cases he
  | vbiasValue b => cases hd

end Sys2Proof
end

section
/-! Exceptions (60_exceptions.md R231 to R233): what a step at a word can do to the fault registers and the status.
A word is rejected, done, or takes a fault, and a fault is taken by a request word alone. -/

namespace Sys2Proof.Machine

/-! ### What a word can do -/

/-- From `s` to `t` the word was served to its end: the fault registers stay and DONE is returned. -/
structure ServedDone (s t : State) : Prop where
  fault    : t.fault = s.fault
  faultReq : t.faultReq = s.faultReq
  statuses : t.statuses = s.statuses ++ [.done]

theorem SameRun.servedDone {s s' : State} (h : SameRun s s') (events : List BusEvent) :
    ServedDone s ((s'.emit events).report .done) where
  fault := h.fault
  faultReq := h.faultReq
  statuses := congrArg (· ++ [Status.done]) h.statuses

/-- The inversion of serving a word, seen from outside: it is rejected, done, or a request word that takes a
fault, in its decoding or in its execution. -/
theorem serveWord_outcome {p : PortWord} {s t : State} (h : serveWord p s = .next t) :
    (s.fault ≠ 0 ∧ t = s.reject) ∨
    (s.fault = 0 ∧ ServedDone s t) ∨
    (s.fault = 0 ∧ ∃ code w, p = .req32 w ∧ t = s.takeFault code w) := by
  obtain hrej | ⟨hf, i, hd, hi⟩ | ⟨hf, e, code, hd, he, rfl⟩ := serveWord_next h
  · exact .inl hrej
  · obtain hrej | ⟨-, s', events, hrun, -, rfl⟩ | ⟨-, code, w, hw, rfl⟩ := exec_next hi
    · exact .inl hrej
    · exact .inr (.inl ⟨hf, hrun.servedDone events⟩)
    · exact .inr (.inr ⟨hf, code, w, port_eq_of_decode_ok hd hw, rfl⟩)
  · exact .inr (.inr ⟨hf, code, _, port_eq_of_decode_error hd he, rfl⟩)

theorem serveWord_of_step {s t : State} {p : PortWord} {rest : List HostInput}
    (hi : s.inputs = .word p :: rest) (h : step s = .next t) : serveWord p (s.setInputs rest) = .next t :=
  (step_word hi).symm.trans h

/-! ### The obligations -/

/-- Settles O14: the gate stands before decode, and of the three things a step can serve, waiting and a rejected
word leave the fault registers. -/
theorem faultedBlockRejectsUntilReset : Obligations.FaultedBlockRejectsUntilReset := by
  refine ⟨fun s p rest hf hi => (step_word hi).trans (if_pos hf), fun s t hf h hne => ?_⟩
  obtain ⟨-, rfl⟩ | ⟨rest, hi, -⟩ | ⟨p, rest, -, hp⟩ := step_next h
  · exact absurd hne (by simp)
  · rw [hi]
    rfl
  · obtain ⟨-, rfl⟩ | ⟨hf', -⟩ | ⟨hf', -⟩ := serveWord_outcome hp
    · exact absurd hne (by simp)
    · exact absurd hf' hf
    · exact absurd hf' hf

/-- Settles O15: a word that is done keeps the fault registers, and one that takes a fault is a request word. -/
theorem faultChangesNothingElse : Obligations.FaultChangesNothingElse := by
  intro s t p rest hf hi h
  obtain ⟨hf', -⟩ | ⟨-, hdone⟩ | ⟨-, code, w, hp, rfl⟩ := serveWord_outcome (serveWord_of_step hi h)
  · exact absurd hf hf'
  · exact .inl ⟨hdone.fault.trans hf, hdone.faultReq⟩
  · exact .inr ⟨code, w, hp, faultNumber_ne_zero code, takeFault_eq_afterFault ..⟩

/-- Settles O16: each of the three outcomes returns its own status, and the fault numbers tell the codes from
each other and from no fault. -/
theorem eachWordGetsOneStatus : Obligations.EachWordGetsOneStatus := by
  intro s t p rest hi h
  obtain ⟨hf, rfl⟩ | ⟨hf, hdone⟩ | ⟨hf, code, w, -, rfl⟩ := serveWord_outcome (serveWord_of_step hi h)
  · exact ⟨.rejected, rfl, iff_of_true rfl hf, fun _ => iff_of_false nofun fun hc => hf hc.1,
      iff_of_false nofun fun hc => hf hc.1⟩
  · have ht : t.fault = 0 := hdone.fault.trans hf
    exact ⟨.done, hdone.statuses, iff_of_false nofun (not_not_intro hf),
      fun code => iff_of_false nofun fun hc => faultNumber_ne_zero code (hc.2.symm.trans ht),
      iff_of_true rfl ⟨hf, ht⟩⟩
  · refine ⟨.fault code, rfl, iff_of_false nofun (not_not_intro hf), fun code' => ⟨?_, ?_⟩,
      iff_of_false nofun fun hc => faultNumber_ne_zero code hc.2⟩
    · rintro ⟨⟩
      exact ⟨hf, rfl⟩
    · rintro ⟨-, hnumber⟩
      rw [faultNumber_injective hnumber]

end Sys2Proof.Machine
end

section
/-! Block reset (70_reset_and_hazards.md R260, R261): a step that serves it restores every element and emits
nothing, and the state after reset holds the values it restores. -/

namespace Sys2Proof.Machine

/-- With block reset presented next, a step resets the block in the state whose port has moved on. -/
theorem step_blockReset {s : State} {rest : List HostInput} (hi : s.inputs = .blockReset :: rest) :
    step s = .next (s.setInputs rest).blockReset := by
  simp only [step, serveNext, hi, serve]

/-- Settles O7: moving the port on changes no element and no parameter, so block reset gives each element its
value of R260. -/
theorem blockResetRestoresEveryElement : Obligations.BlockResetRestoresEveryElement := by
  intro s rest hi
  rw [step_blockReset hi, State.blockReset, State.setInputs]

/-- Settles O8: the state after reset is what block reset makes of it, with the default `VBIAS_DEFAULT` in
`CONTRAST` and a trace that begins empty. -/
theorem resetStateHoldsTheSpecValues : Obligations.ResetStateHoldsTheSpecValues := by
  have hvbias : State.reset.params.vbiasDefault = 0x49 := rfl
  have htrace : State.reset.trace = [] := rfl
  rw [Obligations.ResetStateHoldsTheSpecValues, ← blockReset_reset]
  simp [hvbias, htrace]

end Sys2Proof.Machine
end
